-- ==== Sys2Proof/Word.lean ====
section
/-! DEFINITION. The units of spec/00_scope.md R7 and spec/10_state.md R21, R25: bytes, 15-bit
sequence numbers, byte strings, ticks. -/

namespace Sys2Proof

/-- A byte; bit 0 is its least significant bit (R7). -/
abbrev Byte := BitVec 8

/-- A sequence number, 0 to 32767, modulo 32768 (R21, R22). -/
abbrev Seq := BitVec 15

/-- An ASDU: an opaque byte string (R57). -/
abbrev Asdu := List Byte

/-- A frame, in transmission order, first byte first (R7). -/
abbrev Frame := List Byte

end Sys2Proof
end

