-- ==== Sys2Proof/Syntax.lean ====
section
/-! DEFINITION. The operations of spec/00_scope.md R10, one constructor per row of
spec/opcode_table.json, with the operands the spec gives each. -/

namespace Sys2Proof

/-- The classes `CLASSIFY` returns (R105). -/
inductive FrameClass where
  | i
  | s
  | startdtAct
  | stopdtAct
  | testfrAct
  | testfrCon
  | unknown
  deriving DecidableEq, Repr

/-- A received frame that has a first control octet (R70): `c1` at frame offset 2, and the bytes
from frame offset 3 on. -/
structure RxFrame where
  c1   : Byte
  tail : List Byte
  deriving DecidableEq, Repr

/-- The instruction set of the block (R9, R10). The operand of a received-frame operation is the
frame itself (LOG 1); `n` of `classify` is the delivered length (R105). -/
inductive Instr where
  /-- `RX_I` (R131). -/
  | rxI (f : RxFrame)
  /-- `RX_STARTDT_ACT` (R170). -/
  | rxStartdtAct (f : RxFrame)
  /-- `RX_STOPDT_ACT` (R171). -/
  | rxStopdtAct (f : RxFrame)
  /-- `RX_TESTFR_ACT` (R172). -/
  | rxTestfrAct (f : RxFrame)
  /-- `RX_TESTFR_CON` (R173). -/
  | rxTestfrCon (f : RxFrame)
  /-- `RX_S` (R132). -/
  | rxS (f : RxFrame)
  /-- `RX_UNKNOWN` (R174). -/
  | rxUnknown (f : RxFrame)
  /-- `TX_I` (R107). -/
  | txI (asdu : Asdu) (ns nr : Seq)
  /-- `TX_S` (R108). -/
  | txS (nr : Seq)
  /-- `TX_STARTDT_CON` (R109). -/
  | txStartdtCon
  /-- `TX_STOPDT_CON` (R110). -/
  | txStopdtCon
  /-- `TX_TESTFR_CON` (R111). -/
  | txTestfrCon
  /-- `TX_TESTFR_ACT` (R112). -/
  | txTestfrAct
  /-- `READ_FRAME` (R100). -/
  | readFrame
  /-- `RESYNC` (R102). -/
  | resync
  /-- `CLASSIFY` (R105). -/
  | classify (n : Nat)
  /-- `SEND_I` (R130). -/
  | sendI (asdu : Asdu)
  /-- `SEND_S` (R133). -/
  | sendS
  /-- `FORCE_ACK` (R134). -/
  | forceAck
  /-- `T3_RESET` (R151). -/
  | t3Reset
  /-- `T3_CHECK` (R152). -/
  | t3Check
  /-- `T2_CHECK` (R153). -/
  | t2Check
  /-- `QUEUE_SEND` (R204). -/
  | queueSend
  /-- `ITERATE` (R209). -/
  | iterate
  /-- `DO_CLOSE` (R243). -/
  | doClose
  /-- `CLOSE` (R211). -/
  | close
  /-- `NOTIFY` (R212). -/
  | notify
  /-- `SEND_ASDU` (R194). -/
  | sendAsdu (asdu : Asdu)
  /-- `SEND_ACT_CON` (R194). -/
  | sendActCon (asdu : Asdu) (negative : Bool)
  /-- `SEND_ACT_TERM` (R194). -/
  | sendActTerm (asdu : Asdu)
  deriving DecidableEq, Repr

end Sys2Proof
end

