-- ==== Sys2Proof/Decode.lean ====
section
/-! DEFINITION. Frames and bytes (spec/30_encoding.md): sequence-number assembly, the decode tree,
the cutting of one frame from the receive stream, the decoder of received frames, the decoder of
transmitted frames, and the encoder. -/

namespace Sys2Proof

/-- `START`, the first byte of every frame (R70). -/
abbrev startByte : Byte := 0x68

/-! ### Sequence numbers (R76 to R78) -/

/-- The low byte of a sequence field (R76). -/
def encLo (n : Seq) : Byte := BitVec.ofNat 8 (n.toNat % 128 * 2)

/-- The high byte of a sequence field (R76). -/
def encHi (n : Seq) : Byte := BitVec.ofNat 8 (n.toNat / 128)

/-- The sequence number of a two-byte field; bit 0 of the low byte does not contribute (R77). -/
def decSeq (lo hi : Byte) : Seq := BitVec.ofNat 15 (lo.toNat / 2 + hi.toNat * 128)

/-! ### The decode tree (R79) -/

/-- A mask matches when every bit of it is set in `c1` (R79, decision D8). -/
def maskMatches (c1 mask : Byte) : Bool := c1 &&& mask == mask

/-- Tests 2 to 8 of the decode tree, in their order (R79, R105). -/
def classOf (c1 : Byte) : FrameClass :=
  if c1 &&& 0x01 = 0x00 then .i
  else if maskMatches c1 0x07 then .startdtAct
  else if maskMatches c1 0x13 then .stopdtAct
  else if maskMatches c1 0x43 then .testfrAct
  else if maskMatches c1 0x83 then .testfrCon
  else if c1 &&& 0x02 = 0x00 then .s
  else .unknown

/-- The received-frame operation of a class (R203). -/
def receivedInstr : FrameClass → RxFrame → Instr
  | .i, f => .rxI f
  | .s, f => .rxS f
  | .startdtAct, f => .rxStartdtAct f
  | .stopdtAct, f => .rxStopdtAct f
  | .testfrAct, f => .rxTestfrAct f
  | .testfrCon, f => .rxTestfrCon f
  | .unknown, f => .rxUnknown f

/-! ### Cutting one frame from a byte stream (R70, R81, R53, R54) -/

/-- What stands at the head of a byte stream. -/
inductive RxHead where
  /-- No byte. -/
  | empty
  /-- A byte that is no start byte, and the bytes after it (R53). -/
  | badStart (b : Byte) (rest : List Byte)
  /-- A start byte whose frame is not complete, and how many bytes are present (R54). -/
  | incomplete (present : Nat)
  /-- A complete frame, by its body (the bytes after the length byte), and the bytes after it. -/
  | whole (body rest : List Byte)
  deriving DecidableEq, Repr

/-- The head of a stream: a frame's length is known after its second byte (R81). -/
def headOf : List Byte → RxHead
  | [] => .empty
  | b :: more =>
    if b ≠ startByte then .badStart b more
    else match more with
      | [] => .incomplete 1
      | len :: rest =>
        if rest.length < len.toNat then .incomplete (rest.length + 2)
        else .whole (rest.take len.toNat) (rest.drop len.toNat)

/-- The frame of a body (R70). -/
def frameOf (body : List Byte) : Frame := startByte :: BitVec.ofNat 8 body.length :: body

/-- The byte-serial parser's three states (R101). -/
inductive ParserState where
  /-- No byte of a frame held. -/
  | hunt
  /-- A start byte held. -/
  | len
  /-- A start byte and the length byte `l` held, and `k < l` body bytes. -/
  | body (l k : Nat)
  deriving DecidableEq, Repr

/-- The byte-serial parser state of the unconsumed bytes: not architectural (R101). -/
def parserState : List Byte → ParserState
  | [] => .hunt
  | b :: more =>
    if b ≠ startByte then .hunt
    else match more with
      | [] => .len
      | l :: rest => if rest.length < l.toNat then .body l.toNat rest.length else .hunt

/-! ### The decoder of received frames -/

/-- Why bytes are no received-frame operation. -/
inductive DecodeError where
  /-- No byte: `READ_FRAME` reports `none` (R100). -/
  | noBytes
  /-- Not a start byte: `RESYNC` (R102). -/
  | badStart (b : Byte)
  /-- An incomplete frame: hold, or `FramingError` at the end of the stream (R54). -/
  | incomplete (present : Nat)
  /-- `L = 0`, no control octet: `CLASSIFY` raises `FrameTooShort` (R79 test 0). -/
  | noControlOctet
  deriving DecidableEq, Repr

/-- The received-frame operation at the head of a byte stream, and the bytes after its frame
(R79). -/
def decode (bytes : List Byte) : Except DecodeError (Instr × List Byte) :=
  match headOf bytes with
  | .empty => .error .noBytes
  | .badStart b _ => .error (.badStart b)
  | .incomplete k => .error (.incomplete k)
  | .whole [] _ => .error .noControlOctet
  | .whole (c1 :: tail) rest => .ok (receivedInstr (classOf c1) ⟨c1, tail⟩, rest)

/-! ### The encoder -/

/-- `WriteIFrame` (R107, R71). -/
def writeIFrame (asdu : Asdu) (ns nr : Seq) : Frame :=
  [startByte, BitVec.ofNat 8 (4 + asdu.length), encLo ns, encHi ns, encLo nr, encHi nr] ++ asdu

/-- `WriteSFrame` (R108, R72). -/
def writeSFrame (nr : Seq) : Frame := [startByte, 0x04, 0x01, 0x00, encLo nr, encHi nr]

/-- A U-frame literal with function octet `c1` (R73). -/
def writeUFrame (c1 : Byte) : Frame := [startByte, 0x04, c1, 0x00, 0x00, 0x00]

/-- The frame of a received or transmitted frame operation; the other operations are not encoded
(opcode table: "no bit pattern selects this operation"). -/
def encode : Instr → Option Frame
  | .rxI f => some (frameOf (f.c1 :: f.tail))
  | .rxStartdtAct f => some (frameOf (f.c1 :: f.tail))
  | .rxStopdtAct f => some (frameOf (f.c1 :: f.tail))
  | .rxTestfrAct f => some (frameOf (f.c1 :: f.tail))
  | .rxTestfrCon f => some (frameOf (f.c1 :: f.tail))
  | .rxS f => some (frameOf (f.c1 :: f.tail))
  | .rxUnknown f => some (frameOf (f.c1 :: f.tail))
  | .txI asdu ns nr => some (writeIFrame asdu ns nr)
  | .txS nr => some (writeSFrame nr)
  | .txStartdtCon => some (writeUFrame 0x0B)
  | .txStopdtCon => some (writeUFrame 0x23)
  | .txTestfrCon => some (writeUFrame 0x83)
  | .txTestfrAct => some (writeUFrame 0x43)
  | .readFrame => none
  | .resync => none
  | .classify _ => none
  | .sendI _ => none
  | .sendS => none
  | .forceAck => none
  | .t3Reset => none
  | .t3Check => none
  | .t2Check => none
  | .queueSend => none
  | .iterate => none
  | .doClose => none
  | .close => none
  | .notify => none
  | .sendAsdu _ => none
  | .sendActCon _ _ => none
  | .sendActTerm _ => none

/-! ### The decoder of transmitted frames (LOG 20) -/

/-- Why a frame is none this engine transmits (R113). -/
inductive TxDecodeError where
  /-- Fewer than the six fixed bytes. -/
  | tooShort
  /-- The first byte is no start byte. -/
  | badStart (b : Byte)
  /-- The length byte is not the number of bytes that follow. -/
  | badLength (l : Byte)
  /-- None of the six transmitted forms. -/
  | notTransmitted
  deriving DecidableEq, Repr

/-- The transmitted-frame operation whose frame this is (R71 to R73, R113). -/
def decodeTx : Frame → Except TxDecodeError Instr
  | st :: l :: c1 :: c2 :: c3 :: c4 :: asdu =>
    if st ≠ startByte then .error (.badStart st)
    else if l.toNat ≠ 4 + asdu.length then .error (.badLength l)
    else if c1 &&& 0x01 = 0x00 ∧ c3 &&& 0x01 = 0x00 then
      .ok (.txI asdu (decSeq c1 c2) (decSeq c3 c4))
    else if asdu ≠ [] then .error .notTransmitted
    else if c1 = 0x01 ∧ c2 = 0x00 ∧ c3 &&& 0x01 = 0x00 then .ok (.txS (decSeq c3 c4))
    else if ¬ (c2 = 0x00 ∧ c3 = 0x00 ∧ c4 = 0x00) then .error .notTransmitted
    else if c1 = 0x0B then .ok .txStartdtCon
    else if c1 = 0x23 then .ok .txStopdtCon
    else if c1 = 0x83 then .ok .txTestfrCon
    else if c1 = 0x43 then .ok .txTestfrAct
    else .error .notTransmitted
  | _ => .error .tooShort

/-! ### The opcode table's words (LOG 18) -/

/-- `k` bytes of a number, least significant first. -/
def bytesOf : Nat → Nat → List Byte
  | 0, _ => []
  | k + 1, v => BitVec.ofNat 8 v :: bytesOf k (v / 256)

/-- The frame whose control octets, from `c1` on, are the bits of `w`: a received-frame row of the
opcode table is given by `c1`, whose bit 0 the table numbers 0. The frame has the four control
octets, more where `nbits` needs more. -/
def tableFrame (nbits w : Nat) : Frame :=
  frameOf (bytesOf (min 255 (max 4 ((nbits + 7) / 8))) (w % 2 ^ nbits))

/-- The instruction the decoder reads from a word of the opcode table; a row without bits is not
encoded. -/
def decodeTableWord (nbits w : Nat) : Option Instr :=
  if nbits = 0 then none
  else match decode (tableFrame nbits w) with
    | .ok (i, []) => some i
    | _ => none

end Sys2Proof
end

