-- ==== Sys2Proof/Config.lean ====
section
/-! DEFINITION. The constant of spec/00_scope.md R6, the values R6 gives for the parameters U2 lets
vary, and the free values: what the spec leaves to an external collaborator. A free value has no
body, so nothing can be proved of it. -/

namespace Sys2Proof.Config

/-- The value R6 gives for the parameter `I_MIN_SIZE` (decision D14; U2; LOG 31). -/
abbrev iMinSize : Nat := 6

/-- The value R6 gives for the parameter `PROBE_LIMIT` (U2; LOG 31). -/
abbrev probeLimit : Nat := 2

/-- `MAX_ASDU` (R6, decision D23). -/
abbrev maxAsdu : Nat := 251

/-- FREE VALUE: the dispatcher's `k`-th answer beyond those held in `State.answers` (R191 "a draw
under no law", U11 "any value"; LOG 3). -/
opaque freeDispatch : Nat → List Asdu

/-- FREE VALUE: the external ASDU codec's rewriting of an ASDU to activation confirmation with the
given negative flag (R194; LOG 4). -/
opaque codecActCon : Asdu → Bool → Asdu

/-- FREE VALUE: the external ASDU codec's rewriting of an ASDU to activation termination (R194;
LOG 4). -/
opaque codecActTerm : Asdu → Asdu

end Sys2Proof.Config
end

