-- ==== Sys2Proof/Machine/State.lean ====
section
/-! DEFINITION. The state of one APDU-LE instance (spec/10_state.md), its ports and its environment
as plain data, the reasons a step can stop, and reset. -/

namespace Sys2Proof.Machine

/-- The lifecycle register, the program-counter analogue (R29). -/
inductive Phase where
  | started
  | running
  | closing
  | closed
  deriving DecidableEq, Repr

/-- The causes of trap entry with what is recorded at the raise (R231). -/
inductive Cause where
  /-- Code 1: `isRunning = 0` at step 0 (R236). -/
  | closeRequested
  /-- Code 2: RX empty and ended (R233). -/
  | socketClosed
  /-- Code 3: an incomplete frame at the end of the stream, and the bytes present (R232). -/
  | framingError (present : Nat)
  /-- Code 4: a frame too short for its class, and its length byte (R234). -/
  | frameTooShort (len : Nat)
  /-- Code 5: T3 expired with more than two probes outstanding, and the counter (R235). -/
  | livenessFailure (probes : Nat)
  deriving DecidableEq, Repr

/-- An event on the log port LOG (R34; LOG 17). -/
inductive LogEvent where
  /-- A byte dropped by `RESYNC` (R102, R231). -/
  | missingStartByte (b : Byte)
  /-- A received I-frame, with the peer's two numbers (R131, R83). -/
  | rxI (ns nr : Seq)
  /-- A received S-frame, with the peer's number where the frame holds one (R132). -/
  | rxS (nr : Option Seq)
  /-- An unknown control octet (R174). -/
  | unknownControl (c1 : Byte)
  /-- An ASDU refused by `SEND_I` (R130). -/
  | asduTooLong
  /-- Trap entry, with the cause's code and what is recorded (R242, R231). -/
  | closing (code : Nat) (info : Option Nat)
  deriving DecidableEq, Repr

/-- An output of `DO_CLOSE` (R243). -/
inductive PortEvent where
  | sockClose
  | deregister
  deriving DecidableEq, Repr

/-- A move of the environment, or the worker's turn (R213, R11; LOG 2). -/
inductive Move where
  /-- The worker takes its step. -/
  | worker
  /-- The peer appends bytes. -/
  | rx (bytes : List Byte)
  /-- The peer ends the stream. -/
  | rxEof
  /-- The host enqueues an ASDU. -/
  | enq (asdu : Asdu)
  /-- The host command `CLOSE`. -/
  | close
  /-- The host command `NOTIFY`. -/
  | notify
  /-- Time advances by a number of ticks. -/
  | advance (ticks : Nat)
  deriving DecidableEq, Repr

/-- An addressed memory: (address, byte) pairs with strictly rising addresses. An address that is
not listed has no value (R31). -/
abbrev Memory := List Host.Cell

/-- Offsets of the frame buffer are 0 to 256 (R31, R59). -/
abbrev fbSize : Nat := 257

/-- The canonical form: addresses strictly rising, all in the buffer. -/
abbrev Memory.wf (m : Memory) : Prop :=
  m.Pairwise (fun a b => a.1 < b.1) ∧ ∀ c ∈ m, c.1 < fbSize

/-- Why the machine stops. Every one is safe: the model stops where the spec gives no effect. -/
inductive Fault where
  /-- A worker operation outside STARTED and RUNNING (R200, R214). Raised by every operation of
  the worker but `DO_CLOSE`. Safe. -/
  | workerNotEnabled
  /-- `DO_CLOSE` outside CLOSING (R243). Raised by `DO_CLOSE`. Safe. -/
  | closeNotEnabled
  /-- The worker's turn in CLOSED, where no step is enabled (R214). Raised by the step. Safe. -/
  | runOver
  /-- A read of FB outside its window or beyond the delivered length (R31, U6). Raised by
  `CLASSIFY` and by the reading of a frame's octets. Safe. -/
  | fbUnspecified (offset : Nat)
  /-- `RxPeek` or `RxTake` beyond the bytes present (R55). Raised by `RESYNC`. Safe. -/
  | rxUnderflow
  /-- `RESYNC` with a start byte at the head of RX (R102). Raised by `RESYNC`. Safe. -/
  | notMisaligned
  /-- An ASDU over 251 bytes handed to `TX_I` (R107). Raised by `TX_I`. Safe. -/
  | asduTooLong
  /-- `Now() - lastConfirmationTime` would underflow (U5). Raised by `T2_CHECK`. Safe. -/
  | timeWentBack
  deriving DecidableEq, Repr

/-- Why the machine refuses. -/
inductive Refusal where
  /-- An instruction without a meaning yet. Raised by exec. Safe. -/
  | notModelled (mnemonic : String)
  /-- The peer appends after it ended the stream: the environment has no such move (R213). Raised
  by the step on such a move. Safe. -/
  | rxAfterEof
  deriving DecidableEq, Repr

/-- The state. First the spec's own (R20), then its ports and inputs (R34), then the model's own
fields (LOG 2, LOG 3, LOG 9). -/
structure State where
  /-- R21. -/
  sendCount : Seq
  /-- R22. -/
  receiveCount : Seq
  /-- R23. -/
  unconfirmedCount : Nat
  /-- R24. -/
  outstandingTestProbes : Nat
  /-- R25. -/
  lastConfirmationTime : Nat
  /-- R26. -/
  nextIdleTimeoutAt : Nat
  /-- R27. -/
  isActive : Bool
  /-- R28. -/
  isRunning : Bool
  /-- R29. -/
  phase : Phase
  /-- R30, seconds. -/
  t2 : Nat
  /-- R30, seconds. -/
  t3 : Nat
  /-- R30. -/
  w : Nat
  /-- `TPS`, ticks per second (R6, R156). -/
  tps : Nat
  /-- `I_MIN_SIZE`, bytes (R6, U2; LOG 31). -/
  iMinSize : Nat
  /-- `PROBE_LIMIT` (R6, U2; LOG 31). -/
  probeLimit : Nat
  /-- `BAD_START_FATAL` (D39; LOG 7). -/
  badStartFatal : Bool
  /-- FB (R31). -/
  fb : Memory
  /-- RX, the unconsumed bytes in arrival order (R32). -/
  rx : List Byte
  /-- `rx_eof` (R32). -/
  rxEof : Bool
  /-- TX, oldest frame first (R33). -/
  tx : List Frame
  /-- Port OQ: the external queue, oldest first (R58). -/
  oq : List Asdu
  /-- Port DISP: the ASDUs dispatched, oldest first (R191). -/
  disp : List Asdu
  /-- Port DISP: the dispatcher's answers to come (R191; LOG 3). -/
  answers : List (List Asdu)
  /-- How many free dispatcher answers were taken (LOG 3). -/
  draws : Nat
  /-- Port LOG, oldest first (R34). -/
  log : List LogEvent
  /-- The outputs emitted, oldest first (R243). -/
  out : List PortEvent
  /-- The time input (R156). -/
  now : Nat
  /-- The ticks that pass before each coming time read (D3; LOG 14). -/
  clock : List Nat
  /-- The moves to come (LOG 2). -/
  sched : List Move
  /-- What `READ_FRAME` returned: the total length of the frame, or none (R203; LOG 9). -/
  delivered : Option Nat
  /-- What `CLASSIFY` returned (R203; LOG 9). -/
  cls : Option FrameClass
  deriving DecidableEq, Repr

/-- What one instruction, or one step, answers. -/
abbrev Result := Host.Outcome State Fault Refusal

/-- What is given at reset: the configuration inputs, the parameters of R6 and U2, the present time,
and the external queue's content (R260, R263, R30, R41). -/
structure Params where
  t2 : Nat
  t3 : Nat
  w : Nat
  tps : Nat
  iMinSize : Nat
  probeLimit : Nat
  badStartFatal : Bool
  /-- The value of `Now()` at reset. -/
  t0 : Nat
  /-- The external send queue of this connection, "empty or not" (R263 step 5; LOG 30). -/
  oq : List Asdu
  deriving DecidableEq, Repr

/-- The legal inputs: `w` and `TPS` (R6, R263 step 2), and an `I_MIN_SIZE` that covers the header and
the four control octets (R6; LOG 31). -/
abbrev Params.legal (p : Params) : Prop := p.w ≤ 32767 ∧ 0 < p.tps ∧ 6 ≤ p.iMinSize

/-- Reset over given inputs (R41, R261). -/
def State.resetWith (p : Params) : State where
  sendCount := 0
  receiveCount := 0
  unconfirmedCount := 0
  outstandingTestProbes := 0
  lastConfirmationTime := p.t0
  nextIdleTimeoutAt := p.t0 + p.t3 * p.tps
  isActive := false
  isRunning := true
  phase := .started
  t2 := p.t2
  t3 := p.t3
  w := p.w
  tps := p.tps
  iMinSize := p.iMinSize
  probeLimit := p.probeLimit
  badStartFatal := p.badStartFatal
  fb := []
  rx := []
  rxEof := false
  tx := []
  oq := p.oq
  disp := []
  answers := []
  draws := 0
  log := []
  out := []
  now := p.t0
  clock := []
  sched := []
  delivered := none
  cls := none

/-- The inputs of the one concrete reset: `w`, `I_MIN_SIZE` and `PROBE_LIMIT` are the spec's values
(R6), the others are the convention of spec/95_test_vectors.md. DESIGN CHOICE (LOG 5). The external
queue, which R263 step 5 leaves "empty or not", is empty here: DESIGN CHOICE (LOG 30). -/
def Params.standard : Params where
  t2 := 10
  t3 := 20
  w := 8
  tps := 1000
  iMinSize := Config.iMinSize
  probeLimit := Config.probeLimit
  badStartFatal := false
  t0 := 0
  oq := []

/-- The machine right after reset. -/
def State.reset : State := State.resetWith Params.standard

end Sys2Proof.Machine
end

