-- ==== Sys2Proof/Machine/Ops.lean ====
section
/-! DEFINITION. The primitives of spec/00_scope.md R8 over the state: FB, the streams and ports,
time, trap entry (R242), and the sequencing of operations inside one iteration (R208). -/

namespace Sys2Proof.Machine

/-! ### FB as an addressed memory (R31, R59) -/

/-- The byte at an address; none where nothing is listed. -/
def Memory.read : Memory → Nat → Option Byte
  | [], _ => none
  | (a, b) :: m, x => if x = a then some b else Memory.read m x

/-- Writing one byte, keeping the addresses in rising order. -/
def Memory.write : Memory → Nat → Byte → Memory
  | [], x, v => [(x, v)]
  | (a, b) :: m, x, v =>
    if x < a then (x, v) :: (a, b) :: m
    else if x = a then (x, v) :: m
    else (a, b) :: Memory.write m x v

/-- `MemWrite(addr, n, v)` (R8). -/
def Memory.writeList : Memory → Nat → List Byte → Memory
  | m, _, [] => m
  | m, x, v :: vs => Memory.writeList (m.write x v) (x + 1) vs

/-- `MemRead(addr, n)` (R8): none where one of the bytes has no value. -/
def Memory.readList (m : Memory) : Nat → Nat → Option (List Byte)
  | _, 0 => some []
  | x, n + 1 =>
    match m.read x, Memory.readList m (x + 1) n with
    | some b, some bs => some (b :: bs)
    | _, _ => none

/-- The end of FB's window: its content is unspecified again, and the results of `READ_FRAME` and
`CLASSIFY` are gone (R31, R103). -/
def State.closeWindow (s : State) : State := { s with fb := [], delivered := none, cls := none }

/-- What `CLASSIFY` returns (R105; LOG 9). -/
def State.setClass (s : State) (c : FrameClass) : State := { s with cls := some c }

/-! ### Streams and ports -/

/-- `TxAppend(f)`: one whole frame at the tail of TX (R56). -/
def State.txAppend (s : State) (f : Frame) : State := { s with tx := s.tx ++ [f] }

/-- `Log(event)` (R8). -/
def State.logEvent (s : State) (e : LogEvent) : State := { s with log := s.log ++ [e] }

/-- The delivery of a frame by `READ_FRAME`: taken from RX, written to FB (R100, R103). -/
def State.deliver (s : State) (body rest : List Byte) : State :=
  { s with
    rx := rest
    fb := Memory.writeList [] 0 (frameOf body)
    delivered := some (body.length + 2)
    cls := none }

/-- The state after one `Now()`; the time read is its `now` (R156, D3; LOG 14). -/
def State.sample (s : State) : State :=
  match s.clock with
  | [] => s
  | d :: ds => { s with now := s.now + d, clock := ds }

/-- The dispatcher's answer to the next `Dispatch`: the next one held, or a free value (R191;
LOG 3). -/
def State.nextAnswer (s : State) : List Asdu :=
  match s.answers with
  | a :: _ => a
  | [] => Config.freeDispatch s.draws

/-- `Dispatch(asdu)`: the ASDU is handed over and one answer is used up (R191; LOG 3). -/
def State.handOver (s : State) (asdu : Asdu) : State :=
  match s.answers with
  | _ :: as => { s with disp := s.disp ++ [asdu], answers := as }
  | [] => { s with disp := s.disp ++ [asdu], draws := s.draws + 1 }

/-! ### Taking an exception (R231, R242) -/

/-- The code of a cause (R231). -/
def Cause.code : Cause → Nat
  | .closeRequested => 1
  | .socketClosed => 2
  | .framingError _ => 3
  | .frameTooShort _ => 4
  | .livenessFailure _ => 5

/-- What is recorded of a cause (R231). -/
def Cause.info : Cause → Option Nat
  | .closeRequested => none
  | .socketClosed => none
  | .framingError k => some k
  | .frameTooShort l => some l
  | .livenessFailure n => some n

/-- Trap entry: the log event, `isRunning` cleared, `phase` to CLOSING, in this order; nothing is
saved and nothing returns (R242, R245). -/
def State.trapEntry (s : State) (x : Cause) : State :=
  let s := s.logEvent (.closing x.code x.info)
  let s := { s with isRunning := false }
  { s with phase := .closing }

/-- `RESYNC` on the byte `b` at the head of RX: one byte dropped and logged (R102); with
`BAD_START_FATAL` it raises `FramingError` instead (D39; LOG 7). -/
def State.dropByte (s : State) (b : Byte) (rest : List Byte) : State :=
  if s.badStartFatal then s.trapEntry (.framingError s.rx.length)
  else { s.logEvent (.missingStartByte b) with rx := rest }

/-! ### Sequencing -/

/-- The phases in which the worker's operations are executed (R200). -/
abbrev State.enabled (s : State) : Prop := s.phase = .started ∨ s.phase = .running

/-- A worker operation, executed only while `ITERATE` is enabled (R200, R9; LOG 10). -/
def whenWorker (s : State) (k : State → Result) : Result :=
  if s.enabled then k s else .fault .workerNotEnabled

/-- The next line of an iteration, after an operation that answered `o`: a raise, which has moved
`phase` to CLOSING, ends the iteration (R208). -/
def andThen (o : Result) (k : State → Result) : Result :=
  match o with
  | .next s => if s.phase = .closing then .next s else k s
  | .fault r => .fault r
  | .refused r => .refused r

/-- A change of the next state, whatever the operation raised. -/
def mapNext (g : State → State) : Result → Result
  | .next s => .next (g s)
  | .fault r => .fault r
  | .refused r => .refused r

end Sys2Proof.Machine
end

