-- ==== Sys2Proof/Machine/Operands.lean ====
section
/-! DEFINITION. Operands: the fields of a received frame (spec/40_frame_codec.md R106), a frame read
out of FB, and the arithmetic of spec/41_sequence_manager.md R136. -/

namespace Sys2Proof.Machine

/-- `n`, the total size of a received frame (R70): start, length, `c1`, the rest. -/
def frameSize (f : RxFrame) : Nat := f.tail.length + 3

/-- `L`, the length byte of a received frame (R70). -/
def frameLen (f : RxFrame) : Nat := f.tail.length + 1

/-- `peer_ns`, `peer_nr` and the ASDU (R106); none where the frame has fewer than four control
octets. -/
def frameFields (f : RxFrame) : Option (Seq × Seq × Asdu) :=
  match f.tail with
  | c2 :: c3 :: c4 :: asdu => some (decSeq f.c1 c2, decSeq c3 c4, asdu)
  | _ => none

/-- The frame of total size `n` in FB, from its first control octet on (R31, R103). -/
def State.fetchFrame (s : State) (n : Nat) : Option RxFrame :=
  match s.fb.readList 2 (n - 2) with
  | some (c1 :: tail) => some ⟨c1, tail⟩
  | _ => none

/-- `inc15(x) = (x + 1) % 32768` (R136). -/
def inc15 (x : Seq) : Seq := BitVec.ofNat 15 ((x.toNat + 1) % 32768)

/-- `T2_TICKS` (R6). -/
def State.t2Ticks (s : State) : Nat := s.t2 * s.tps

/-- `T3_TICKS` (R6). -/
def State.t3Ticks (s : State) : Nat := s.t3 * s.tps

end Sys2Proof.Machine
end

