-- ==== Sys2Proof/Machine/Flags.lean ====
section
/-! DEFINITION. The conditions the operations test (spec/41_sequence_manager.md R136 (f)) and the
flag they write. -/

namespace Sys2Proof.Machine

/-- "`unconfirmedCount` exceeds `w`", strictly (R134). -/
abbrev State.ackForced (s : State) : Prop := s.unconfirmedCount > s.w

/-- T3 has expired: strictly later than the deadline (R152, D16). -/
abbrev State.t3Expired (s : State) : Prop := s.now > s.nextIdleTimeoutAt

/-- The verdict "dead" (R152). -/
abbrev State.peerDead (s : State) : Prop := s.outstandingTestProbes > s.probeLimit

/-- T2 is active (R153). -/
abbrev State.t2Active (s : State) : Prop := s.unconfirmedCount > 0

/-- T2 has run out (R153). -/
abbrev State.t2Expired (s : State) : Prop := s.now - s.lastConfirmationTime ≥ s.t2Ticks

/-- The data-transfer mode, STARTED or STOPPED (R27, R177). -/
def State.setActive (s : State) (b : Bool) : State := { s with isActive := b }

end Sys2Proof.Machine
end

