-- ==== Sys2Proof/Machine/Codec.lean ====
section
/-! DEFINITION. The Frame Codec (spec/40_frame_codec.md): `READ_FRAME`, `RESYNC`, `CLASSIFY` and the
six frame writers. -/

namespace Sys2Proof.Machine

/-- `READ_FRAME` (R100). A new window of FB opens; the head of RX decides. -/
def execReadFrame (s : State) : Result :=
  whenWorker s fun s =>
    let s := s.closeWindow
    match headOf s.rx with
    | .empty => if s.rxEof then .next (s.trapEntry .socketClosed) else .next s
    | .badStart b rest => .next (s.dropByte b rest)
    | .incomplete k => if s.rxEof then .next (s.trapEntry (.framingError k)) else .next s
    | .whole body rest => .next (s.deliver body rest)

/-- `RESYNC` (R102); its operand is a head byte that is no start byte. -/
def execResync (s : State) : Result :=
  whenWorker s fun s =>
    let s := s.closeWindow
    match s.rx with
    | [] => .fault .rxUnderflow
    | b :: rest => if b = startByte then .fault .notMisaligned else .next (s.dropByte b rest)

/-- `CLASSIFY` (R105). -/
def execClassify (n : Nat) (s : State) : Result :=
  whenWorker s fun s =>
    if n < 3 then .next (s.trapEntry (.frameTooShort (n - 2)))
    else match s.fb.read 2 with
      | none => .fault (.fbUnspecified 2)
      | some c1 => .next (s.setClass (classOf c1))

/-- `TX_I` (R107); its operand is an ASDU of at most 251 bytes. -/
def execTxI (asdu : Asdu) (ns nr : Seq) (s : State) : Result :=
  whenWorker s fun s =>
    if asdu.length > Config.maxAsdu then .fault .asduTooLong
    else .next (s.txAppend (writeIFrame asdu ns nr))

/-- `TX_S` (R108). -/
def execTxS (nr : Seq) (s : State) : Result :=
  whenWorker s fun s => .next (s.txAppend (writeSFrame nr))

/-- `TX_STARTDT_CON` (R109). -/
def execTxStartdtCon (s : State) : Result :=
  whenWorker s fun s => .next (s.txAppend (writeUFrame 0x0B))

/-- `TX_STOPDT_CON` (R110). -/
def execTxStopdtCon (s : State) : Result :=
  whenWorker s fun s => .next (s.txAppend (writeUFrame 0x23))

/-- `TX_TESTFR_CON` (R111). -/
def execTxTestfrCon (s : State) : Result :=
  whenWorker s fun s => .next (s.txAppend (writeUFrame 0x83))

/-- `TX_TESTFR_ACT`, the probe (R112). -/
def execTxTestfrAct (s : State) : Result :=
  whenWorker s fun s => .next (s.txAppend (writeUFrame 0x43))

end Sys2Proof.Machine
end

