-- ==== Sys2Proof/Machine/Control.lean ====
section
/-! DEFINITION. The Control-Function Handler (spec/43_control_function.md). Only `c1` is examined
(R83), so the operand's other octets are not read. -/

namespace Sys2Proof.Machine

/-- `RX_STARTDT_ACT` (R170): the confirmation first, the flag second. -/
def execRxStartdtAct (_f : RxFrame) (s : State) : Result :=
  whenWorker s fun s => .next ((s.txAppend (writeUFrame 0x0B)).setActive true)

/-- `RX_STOPDT_ACT` (R171). -/
def execRxStopdtAct (_f : RxFrame) (s : State) : Result :=
  whenWorker s fun s => .next ((s.txAppend (writeUFrame 0x23)).setActive false)

/-- `RX_TESTFR_ACT` (R172). -/
def execRxTestfrAct (_f : RxFrame) (s : State) : Result :=
  whenWorker s fun s => .next (s.txAppend (writeUFrame 0x83))

/-- `RX_TESTFR_CON` (R173, R155). -/
def execRxTestfrCon (_f : RxFrame) (s : State) : Result :=
  whenWorker s fun s => .next { s with outstandingTestProbes := 0 }

/-- `RX_UNKNOWN` (R174). -/
def execRxUnknown (f : RxFrame) (s : State) : Result :=
  whenWorker s fun s => .next (s.logEvent (.unknownControl f.c1))

end Sys2Proof.Machine
end

