-- ==== Sys2Proof/Machine/Sequence.lean ====
section
/-! DEFINITION. The Sequence Manager (spec/41_sequence_manager.md) and the pseudo-operations that
expand to `SEND_I` (spec/44_asdu_dispatch_interface.md R194). -/

namespace Sys2Proof.Machine

/-- The I-frame send path (R130): stamp with the present counters, then advance `sendCount`; an
over-long ASDU is refused and logged. -/
def State.sendI (s : State) (asdu : Asdu) : State :=
  if asdu.length > Config.maxAsdu then s.logEvent .asduTooLong
  else { s.txAppend (writeIFrame asdu s.sendCount s.receiveCount) with
    sendCount := inc15 s.sendCount }

/-- One `SEND_I` per response, in list order (R191). -/
def State.sendAll : State → List Asdu → State
  | s, [] => s
  | s, a :: as => State.sendAll (s.sendI a) as

/-- The common tail of the forced acknowledgment and of T2 (R133). -/
def State.sendS (s : State) : State :=
  let s := (s.txAppend (writeSFrame s.receiveCount)).sample
  { s with unconfirmedCount := 0, lastConfirmationTime := s.now }

/-- The counting of a received I-frame: both counters advance, and the 0-to-1 transition is stamped
with the time (R131). -/
def State.countI (s : State) : State :=
  let s := { s with
    receiveCount := inc15 s.receiveCount
    unconfirmedCount := s.unconfirmedCount + 1 }
  if s.unconfirmedCount = 1 then
    let s := s.sample
    { s with lastConfirmationTime := s.now }
  else s

/-- The dispatch of a received ASDU, only while active, and the responses (R190, R191). -/
def State.dispatchAsdu (s : State) (asdu : Asdu) : State :=
  if s.isActive then
    (s.handOver asdu).sendAll s.nextAnswer
  else s

/-- `SEND_I` (R130). -/
def execSendI (asdu : Asdu) (s : State) : Result :=
  whenWorker s fun s => .next (s.sendI asdu)

/-- `SEND_S` (R133). -/
def execSendS (s : State) : Result :=
  whenWorker s fun s => .next s.sendS

/-- `FORCE_ACK` (R134). -/
def execForceAck (s : State) : Result :=
  whenWorker s fun s => .next (if s.ackForced then s.sendS else s)

/-- `RX_I` (R131). A frame of at least `I_MIN_SIZE` bytes without its four control
octets has no numbers to read: an offset of FB beyond the frame (U6). -/
def execRxI (f : RxFrame) (s : State) : Result :=
  whenWorker s fun s =>
    if frameSize f < s.iMinSize then .next (s.trapEntry (.frameTooShort (frameLen f)))
    else match frameFields f with
      | none => .fault (.fbUnspecified (frameSize f))
      | some (ns, nr, asdu) => .next (((s.logEvent (.rxI ns nr)).countI).dispatchAsdu asdu)

/-- `RX_S` (R132). -/
def execRxS (f : RxFrame) (s : State) : Result :=
  whenWorker s fun s => .next (s.logEvent (.rxS ((frameFields f).map (·.2.1))))

/-- `SEND_ASDU` (R194). -/
def execSendAsdu (asdu : Asdu) (s : State) : Result :=
  whenWorker s fun s => .next (s.sendI asdu)

/-- `SEND_ACT_CON` (R194). -/
def execSendActCon (asdu : Asdu) (negative : Bool) (s : State) : Result :=
  whenWorker s fun s => .next (s.sendI (Config.codecActCon asdu negative))

/-- `SEND_ACT_TERM` (R194). -/
def execSendActTerm (asdu : Asdu) (s : State) : Result :=
  whenWorker s fun s => .next (s.sendI (Config.codecActTerm asdu))

end Sys2Proof.Machine
end

