-- ==== Sys2Proof/Machine/Timeout.lean ====
section
/-! DEFINITION. The Timeout Supervisor (spec/42_timeout_supervisor.md). -/

namespace Sys2Proof.Machine

/-- The idle deadline counted from the time just read (R151). -/
def State.setIdleDeadline (s : State) : State :=
  { s with nextIdleTimeoutAt := s.now + s.t3Ticks }

/-- `T3_RESET` (R151). -/
def execT3Reset (s : State) : Result :=
  whenWorker s fun s => .next s.sample.setIdleDeadline

/-- `T3_CHECK` (R152): a verdict, a probe, or nothing. -/
def execT3Check (s : State) : Result :=
  whenWorker s fun s =>
    let s := s.sample
    if s.t3Expired then
      if s.peerDead then .next (s.trapEntry (.livenessFailure s.outstandingTestProbes))
      else
        let s := s.txAppend (writeUFrame 0x43)
        let s := { s with outstandingTestProbes := s.outstandingTestProbes + 1 }
        .next s.setIdleDeadline
    else .next s

/-- `T2_CHECK` (R153). With the time behind `lastConfirmationTime` it faults (U5). -/
def execT2Check (s : State) : Result :=
  whenWorker s fun s =>
    let s := s.sample
    if s.t2Active then
      if s.now < s.lastConfirmationTime then .fault .timeWentBack
      else .next (if s.t2Expired then s.sendS else s)
    else .next s

end Sys2Proof.Machine
end

