-- ==== Sys2Proof/Machine/Driver.lean ====
section
/-! DEFINITION. The Connection Driver and the host commands (spec/45_connection_driver.md), and the
closing step (spec/60_exceptions.md R243). -/

namespace Sys2Proof.Machine

/-- `QUEUE_SEND` (R204): only while active, at most one ASDU. -/
def execQueueSend (s : State) : Result :=
  whenWorker s fun s =>
    if s.isActive then
      match s.oq with
      | [] => .next s
      | a :: q => .next ({ s with oq := q }.sendI a)
    else .next s

/-- The `case` of step 1 (R203). -/
def runReceived : FrameClass → RxFrame → State → Result
  | .i => execRxI
  | .s => execRxS
  | .startdtAct => execRxStartdtAct
  | .stopdtAct => execRxStopdtAct
  | .testfrAct => execRxTestfrAct
  | .testfrCon => execRxTestfrCon
  | .unknown => execRxUnknown

/-- The received-frame operation of the class found, on the frame in FB, then `T3_RESET` if it did
not raise (R203). -/
def routeFrame (n : Nat) (s : State) : Result :=
  match s.cls, s.fetchFrame n with
  | some c, some f => andThen (runReceived c f s) execT3Reset
  | _, _ => .fault (.fbUnspecified 2)

/-- Step 1 (R203). At its end FB is dead (R31, R103). -/
def readAndRoute (s : State) : Result :=
  mapNext State.closeWindow
    (andThen (execReadFrame s) fun s =>
      match s.delivered with
      | none => .next s
      | some n => andThen (execClassify n s) (routeFrame n))

/-- Steps 2 to 5 (R204 to R207); step 4 has no effect. -/
def afterRead (s : State) : Result :=
  andThen (execQueueSend s) fun s =>
    andThen (execForceAck s) fun s =>
      andThen (execT3Check s) execT2Check

/-- STARTED to RUNNING at step 0 (R202). -/
def State.enterLoop (s : State) : State :=
  if s.phase = .started then { s with phase := .running } else s

/-- `ITERATE` (R209). -/
def execIterate (s : State) : Result :=
  whenWorker s fun s =>
    if s.isRunning then andThen (readAndRoute s.enterLoop) afterRead
    else .next (s.trapEntry .closeRequested)

/-- `DO_CLOSE` (R243): both outputs, the stream ended in both directions, RX emptied. -/
def execDoClose (s : State) : Result :=
  if s.phase = .closing then
    .next { s with
      rxEof := true
      rx := []
      out := s.out ++ [.sockClose, .deregister]
      phase := .closed }
  else .fault .closeNotEnabled

/-- `CLOSE` (R211). -/
def execClose (s : State) : Result := .next { s with isRunning := false }

/-- `NOTIFY` (R212): no register is read or written. -/
def execNotify (s : State) : Result := .next s

end Sys2Proof.Machine
end

