-- ==== Sys2Proof/Machine/Dispatch.lean ====
section
/-! DEFINITION. What each instruction does: one direct call of its meaning. -/

namespace Sys2Proof.Machine

/-- The meaning of every instruction. -/
def exec (i : Instr) (s : State) : Host.Outcome State Fault Refusal :=
  match i with
  | .rxI f => Sys2Proof.Machine.execRxI f s
  | .rxStartdtAct f => Sys2Proof.Machine.execRxStartdtAct f s
  | .rxStopdtAct f => Sys2Proof.Machine.execRxStopdtAct f s
  | .rxTestfrAct f => Sys2Proof.Machine.execRxTestfrAct f s
  | .rxTestfrCon f => Sys2Proof.Machine.execRxTestfrCon f s
  | .rxS f => Sys2Proof.Machine.execRxS f s
  | .rxUnknown f => Sys2Proof.Machine.execRxUnknown f s
  | .txI asdu ns nr => Sys2Proof.Machine.execTxI asdu ns nr s
  | .txS nr => Sys2Proof.Machine.execTxS nr s
  | .txStartdtCon => Sys2Proof.Machine.execTxStartdtCon s
  | .txStopdtCon => Sys2Proof.Machine.execTxStopdtCon s
  | .txTestfrCon => Sys2Proof.Machine.execTxTestfrCon s
  | .txTestfrAct => Sys2Proof.Machine.execTxTestfrAct s
  | .readFrame => Sys2Proof.Machine.execReadFrame s
  | .resync => Sys2Proof.Machine.execResync s
  | .classify n => Sys2Proof.Machine.execClassify n s
  | .sendI asdu => Sys2Proof.Machine.execSendI asdu s
  | .sendS => Sys2Proof.Machine.execSendS s
  | .forceAck => Sys2Proof.Machine.execForceAck s
  | .t3Reset => Sys2Proof.Machine.execT3Reset s
  | .t3Check => Sys2Proof.Machine.execT3Check s
  | .t2Check => Sys2Proof.Machine.execT2Check s
  | .queueSend => Sys2Proof.Machine.execQueueSend s
  | .iterate => Sys2Proof.Machine.execIterate s
  | .doClose => Sys2Proof.Machine.execDoClose s
  | .close => Sys2Proof.Machine.execClose s
  | .notify => Sys2Proof.Machine.execNotify s
  | .sendAsdu asdu => Sys2Proof.Machine.execSendAsdu asdu s
  | .sendActCon asdu negative => Sys2Proof.Machine.execSendActCon asdu negative s
  | .sendActTerm asdu => Sys2Proof.Machine.execSendActTerm asdu s

end Sys2Proof.Machine
end

