-- ==== Sys2Proof/Machine/Scheduler.lean ====
section
/-! DEFINITION. Who moves next: the worker's step of a phase (spec/45_connection_driver.md R200) and
the environment's moves (R213). -/

namespace Sys2Proof.Machine

/-- The worker's step (R200, R214). -/
def workerStep (s : State) : Result :=
  match s.phase with
  | .started => exec .iterate s
  | .running => exec .iterate s
  | .closing => exec .doClose s
  | .closed => .fault .runOver

/-- One move (R213). A peer's append needs `rx_eof = 0`; after CLOSED it is ignored (U13; LOG 12). -/
def runMove (m : Move) (s : State) : Result :=
  match m with
  | .worker => workerStep s
  | .rx bytes =>
    if s.phase = .closed then .next s
    else if s.rxEof then .refused .rxAfterEof
    else .next { s with rx := s.rx ++ bytes }
  | .rxEof => .next { s with rxEof := true }
  | .enq asdu => .next { s with oq := s.oq ++ [asdu] }
  | .close => exec .close s
  | .notify => exec .notify s
  | .advance d => .next { s with now := s.now + d }

/-- The next scheduled move; with none scheduled the worker moves (LOG 2). -/
def nextMove (s : State) : Result :=
  match s.sched with
  | [] => workerStep s
  | m :: ms => runMove m { s with sched := ms }

/-- A frame placed at the head of an otherwise empty RX, with the worker about to run it (LOG 18,
LOG 19). -/
def State.placeFrame (s : State) (f : Frame) : State :=
  { s with
    rx := f
    sched := []
    isRunning := true
    phase := if s.enabled then s.phase else .running }

end Sys2Proof.Machine
end

