-- ==== Sys2Proof/Machine/Step.lean ====
section
/-! DEFINITION. One step of the machine. -/

namespace Sys2Proof.Machine

/-- One step: the next scheduled move, or the worker's. -/
def step (s : State) : Host.Outcome State Fault Refusal := nextMove s

/-- The opcode table's word placed where the next step reads its frame. -/
def State.withFetchWord (s : State) (nbits w : Nat) : State := s.placeFrame (tableFrame nbits w)

end Sys2Proof.Machine
end

