-- ==== Sys2Proof/WellFormed.lean ====
section
/-! DEFINITION. Which terms of Instr the spec gives a meaning to. -/

namespace Sys2Proof

/-- A received frame of class `c`: its first control octet has the class (R79) and the length byte
can say its length (R70). -/
def RxFrame.wf (f : RxFrame) (c : FrameClass) : Bool :=
  classOf f.c1 = c && decide (f.tail.length ≤ 254)

/-- Well-formed instructions. An over-long ASDU is no operand of `TX_I` (R107) and is one of
`SEND_I`, which refuses it (R130); `CLASSIFY`'s `n` is a delivered length, 2 to 257 (R70). -/
def Instr.wf : Instr → Bool
  | .rxI f => f.wf .i
  | .rxStartdtAct f => f.wf .startdtAct
  | .rxStopdtAct f => f.wf .stopdtAct
  | .rxTestfrAct f => f.wf .testfrAct
  | .rxTestfrCon f => f.wf .testfrCon
  | .rxS f => f.wf .s
  | .rxUnknown f => f.wf .unknown
  | .txI asdu _ _ => decide (asdu.length ≤ Config.maxAsdu)
  | .txS _ => true
  | .txStartdtCon => true
  | .txStopdtCon => true
  | .txTestfrCon => true
  | .txTestfrAct => true
  | .readFrame => true
  | .resync => true
  | .classify n => decide (2 ≤ n) && decide (n ≤ 257)
  | .sendI _ => true
  | .sendS => true
  | .forceAck => true
  | .t3Reset => true
  | .t3Check => true
  | .t2Check => true
  | .queueSend => true
  | .iterate => true
  | .doClose => true
  | .close => true
  | .notify => true
  | .sendAsdu _ => true
  | .sendActCon _ _ => true
  | .sendActTerm _ => true

/-- The seven received-frame operations (R10). -/
def Instr.isReceived : Instr → Bool
  | .rxI _ | .rxStartdtAct _ | .rxStopdtAct _ | .rxTestfrAct _ | .rxTestfrCon _ | .rxS _
  | .rxUnknown _ => true
  | .txI _ _ _ | .txS _ | .txStartdtCon | .txStopdtCon | .txTestfrCon | .txTestfrAct
  | .readFrame | .resync | .classify _ | .sendI _ | .sendS | .forceAck | .t3Reset | .t3Check
  | .t2Check | .queueSend | .iterate | .doClose | .close | .notify | .sendAsdu _
  | .sendActCon _ _ | .sendActTerm _ => false

/-- The six transmitted-frame operations (R10). -/
def Instr.isTransmitted : Instr → Bool
  | .txI _ _ _ | .txS _ | .txStartdtCon | .txStopdtCon | .txTestfrCon | .txTestfrAct => true
  | .rxI _ | .rxStartdtAct _ | .rxStopdtAct _ | .rxTestfrAct _ | .rxTestfrCon _ | .rxS _
  | .rxUnknown _ | .readFrame | .resync | .classify _ | .sendI _ | .sendS | .forceAck | .t3Reset
  | .t3Check | .t2Check | .queueSend | .iterate | .doClose | .close | .notify | .sendAsdu _
  | .sendActCon _ _ | .sendActTerm _ => false

end Sys2Proof
end

