-- ==== Sys2Proof/Safety.lean ====
section
/-! DEFINITION. The terms claims are stated in: the worker's loop, the frames the engine can
transmit, the responses of one dispatch, and the invariant of every step (spec/10_state.md R40). -/

namespace Sys2Proof.Machine

/-- The worker is in its loop: `ITERATE` is enabled (R200). -/
abbrev State.InLoop (s : State) : Prop := s.phase = .started ∨ s.phase = .running

/-- The value the next `Now()` returns (R156, D3). -/
def State.timeRead (s : State) : Nat := s.now + s.clock.headD 0

/-- The I-format marker: bit 0 of the first control octet is 0 (R71). -/
def isIFrame (f : Frame) : Bool :=
  match f with
  | _ :: _ :: c1 :: _ => c1 &&& 0x01 = 0x00
  | _ => false

/-- How many frames of a list are I-frames. -/
def countIFrames : List Frame → Nat
  | [] => 0
  | f :: fs => (if isIFrame f then 1 else 0) + countIFrames fs

/-- How many received I-frames a log records (R131). -/
def countRxI : List LogEvent → Nat
  | [] => 0
  | .rxI _ _ :: es => 1 + countRxI es
  | _ :: es => countRxI es

/-- An S-frame of this engine (R72). -/
def IsSFrame (f : Frame) : Prop := ∃ nr : Seq, f = [0x68, 0x04, 0x01, 0x00, encLo nr, encHi nr]

/-- An I-frame of this engine (R71). -/
def IsIFrame (f : Frame) : Prop :=
  ∃ (asdu : Asdu) (ns nr : Seq), asdu.length ≤ 251 ∧
    f = 0x68 :: BitVec.ofNat 8 (4 + asdu.length) :: encLo ns :: encHi ns :: encLo nr :: encHi nr
      :: asdu

/-- A confirmation literal (R73). -/
def IsConfirmation (f : Frame) : Prop :=
  f = [0x68, 0x04, 0x0B, 0x00, 0x00, 0x00] ∨ f = [0x68, 0x04, 0x23, 0x00, 0x00, 0x00]
    ∨ f = [0x68, 0x04, 0x83, 0x00, 0x00, 0x00]

/-- The probe (R112). -/
def IsProbe (f : Frame) : Prop := f = [0x68, 0x04, 0x43, 0x00, 0x00, 0x00]

/-- The set of frames that can appear on TX (R113). -/
def Transmittable (f : Frame) : Prop := IsConfirmation f ∨ IsProbe f ∨ IsSFrame f ∨ IsIFrame f

/-- The frames of a list of responses: consecutive N(S), the same N(R), an over-long response
refused (R191, R130). -/
def responseFrames (ns nr : Seq) : List Asdu → List Frame
  | [] => []
  | a :: as =>
    if a.length ≤ 251 then
      (0x68 :: BitVec.ofNat 8 (4 + a.length) :: encLo ns :: encHi ns :: encLo nr :: encHi nr :: a)
        :: responseFrames (ns + 1) nr as
    else responseFrames ns nr as

/-- The log of a list of responses: one event for each refused (R130). -/
def responseLog : List Asdu → List LogEvent
  | [] => []
  | a :: as => if a.length ≤ 251 then responseLog as else .asduTooLong :: responseLog as

/-- Running a list of instructions one after the other. -/
def execList : List Instr → State → Result
  | [], s => .next s
  | i :: is, s =>
    match exec i s with
    | .next t => execList is t
    | .fault r => .fault r
    | .refused r => .refused r

/-- What holds in every state of a run between two steps. -/
structure State.Inv (s : State) : Prop where
  /-- R6, D26. -/
  wInRange : s.w ≤ 32767
  /-- R6: `TPS` is a positive integer. -/
  tpsPositive : 0 < s.tps
  /-- R6: `I_MIN_SIZE` covers the header and the control octets (LOG 31). -/
  iMinSizeCoversHeader : 6 ≤ s.iMinSize
  /-- R40 (a). -/
  unconfirmedWithinW : s.unconfirmedCount ≤ s.w
  /-- R40 (b): at most 3 with the spec's `PROBE_LIMIT`, 2. -/
  probesWithinLimit : s.outstandingTestProbes ≤ s.probeLimit + 1
  /-- R40 (c). -/
  confirmationNotAhead : s.lastConfirmationTime ≤ s.now
  /-- R40 (c). -/
  deadlineNotBeyond : s.nextIdleTimeoutAt ≤ s.now + s.t3 * s.tps
  /-- R40 (d). -/
  startedIsFresh : s.phase = .started →
    s.isActive = false ∧ s.sendCount = 0 ∧ s.receiveCount = 0 ∧ s.unconfirmedCount = 0
      ∧ s.outstandingTestProbes = 0
  /-- R242: trap entry has cleared the flag and nothing sets it. -/
  closingNotRunning : s.phase = .closing ∨ s.phase = .closed → s.isRunning = false
  /-- R244: both outputs exactly once, and only in a connection that reached CLOSED. -/
  outputsOnce : s.out = if s.phase = .closed then [.sockClose, .deregister] else []
  /-- R243, D36. -/
  closedIsEmpty : s.phase = .closed → s.rx = [] ∧ s.rxEof = true
  /-- R31: between iterations FB has no content. -/
  bufferWindowClosed : s.fb = [] ∧ s.delivered = none ∧ s.cls = none
  /-- R113. -/
  onlyTransmittable : ∀ f ∈ s.tx, Transmittable f
  /-- R21, R35: the number of the next I-frame. -/
  sendCountsTransmitted : s.sendCount.toNat = countIFrames s.tx % 32768
  /-- R22: the number of well-formed I-frames received. -/
  receiveCountsReceived : s.receiveCount.toNat = countRxI s.log % 32768

end Sys2Proof.Machine
end

