-- ==== Sys2Proof/Certificates/Slice0/Obligations.lean ====
section
/-! DEFINITION. The statements for the provers: what each operation and the machine do, by the
numbered rules of spec/. `s.InLoop` says that `ITERATE` is enabled (R200); `s.timeRead` is the value
the next `Now()` returns (R156). A next state written in full is also the operation's frame: every
field not named in it is unchanged. -/

open Sys2Proof Sys2Proof.Machine

/-! ### Encoding -/

/-- R52, R76, R77, R78: the two bytes of a sequence field and their value. -/
def Obligations.SequenceFieldsRoundTrip : Prop :=
  (∀ n : Seq,
    (encLo n).toNat = n.toNat % 128 * 2 ∧ (encHi n).toNat = n.toNat / 128 ∧
    (encLo n).toNat % 2 = 0 ∧ (encLo n).toNat ≤ 254 ∧
    decSeq (encLo n) (encHi n) = n ∧
    (encLo n).toNat + 256 * (encHi n).toNat = 2 * n.toNat) ∧
  (∀ lo hi : Byte, (decSeq lo hi).toNat = lo.toNat / 2 + hi.toNat * 128) ∧
  (∀ lo hi : Byte, lo.toNat % 2 = 0 →
    encLo (decSeq lo hi) = lo ∧ encHi (decSeq lo hi) = hi)

/-- The decode tree of 30_encoding.md section 3 by the bits of `c1`, and its counts over the 256
values (the mask tests: the spec's decisions D8 to D11, LOG 21). -/
def Obligations.DecodeTreePartitionsOctets : Prop :=
  (∀ c1 : Byte,
    (classOf c1 = .i ↔ c1.getLsbD 0 = false) ∧
    (classOf c1 = .startdtAct ↔
      c1.getLsbD 0 = true ∧ c1.getLsbD 1 = true ∧ c1.getLsbD 2 = true) ∧
    (classOf c1 = .stopdtAct ↔
      c1.getLsbD 0 = true ∧ c1.getLsbD 1 = true ∧ c1.getLsbD 2 = false ∧ c1.getLsbD 4 = true) ∧
    (classOf c1 = .testfrAct ↔
      c1.getLsbD 0 = true ∧ c1.getLsbD 1 = true ∧ c1.getLsbD 2 = false ∧ c1.getLsbD 4 = false ∧
        c1.getLsbD 6 = true) ∧
    (classOf c1 = .testfrCon ↔
      c1.getLsbD 0 = true ∧ c1.getLsbD 1 = true ∧ c1.getLsbD 2 = false ∧ c1.getLsbD 4 = false ∧
        c1.getLsbD 6 = false ∧ c1.getLsbD 7 = true) ∧
    (classOf c1 = .s ↔ c1.getLsbD 0 = true ∧ c1.getLsbD 1 = false) ∧
    (classOf c1 = .unknown ↔ c1 = 0x03 ∨ c1 = 0x0B ∨ c1 = 0x23 ∨ c1 = 0x2B)) ∧
  (let count := fun c => (List.range 256).countP fun v => classOf (BitVec.ofNat 8 v) = c
   count .i = 128 ∧ count .startdtAct = 32 ∧ count .stopdtAct = 16 ∧ count .testfrAct = 8 ∧
     count .testfrCon = 4 ∧ count .s = 64 ∧ count .unknown = 4)

/-- R80: each of the six literal octets passes one mask test or none (what a match is: the spec's
decision D8, LOG 21). -/
def Obligations.LiteralOctetsPassOneTest : Prop :=
  let passes := fun c1 : Byte =>
    [maskMatches c1 0x07, maskMatches c1 0x13, maskMatches c1 0x43, maskMatches c1 0x83]
  passes 0x07 = [true, false, false, false] ∧ passes 0x13 = [false, true, false, false] ∧
    passes 0x43 = [false, false, true, false] ∧ passes 0x83 = [false, false, false, true] ∧
    passes 0x0B = [false, false, false, false] ∧ passes 0x23 = [false, false, false, false]

/-- Words written out from the formats decode to the operations they stand for. That `01` is of
class S is the spec's decision D11, that `68 00` has no operation its decision D13 (LOG 21); the last
two clauses are about the model's own decoder of transmitted frames (LOG 20), which no rule gives. -/
def Obligations.WrittenWordsDecode : Prop :=
  decode [0x68, 0x05, 0x0E, 0x00, 0xFE, 0xFF, 0xAA] = .ok (.rxI ⟨0x0E, [0x00, 0xFE, 0xFF, 0xAA]⟩, []) ∧
  frameFields ⟨0x0E, [0x00, 0xFE, 0xFF, 0xAA]⟩ = some (7, 32767, [0xAA]) ∧
  decode [0x68, 0x04, 0x07, 0x00, 0x00, 0x00] = .ok (.rxStartdtAct ⟨0x07, [0x00, 0x00, 0x00]⟩, []) ∧
  decode [0x68, 0x04, 0x13, 0x00, 0x00, 0x00] = .ok (.rxStopdtAct ⟨0x13, [0x00, 0x00, 0x00]⟩, []) ∧
  decode [0x68, 0x04, 0x01, 0x00, 0x12, 0x00] = .ok (.rxS ⟨0x01, [0x00, 0x12, 0x00]⟩, []) ∧
  decode [0x68, 0x00] = .error .noControlOctet ∧
  decodeTx [0x68, 0x06, 0x0A, 0x00, 0x04, 0x01, 0xAA, 0xBB] = .ok (.txI [0xAA, 0xBB] 5 130) ∧
  decodeTx [0x68, 0x04, 0x0B, 0x00, 0x00, 0x00] = .ok .txStartdtCon

/-- Every received-frame operation, every octet of its frame at every value its class admits: the
decoder reads the encoder's frame back, whatever follows it in the stream. -/
def Obligations.ReceivedFramesDecodeBack : Prop :=
  ∀ (i : Instr) (rest : List Byte), i.isReceived = true → i.wf = true →
    ∃ e, encode i = some e ∧ decode (e ++ rest) = .ok (i, rest)

/-- What the decoder accepts is the frame of a well-formed received-frame operation. -/
def Obligations.DecodedBytesEncodeBack : Prop :=
  ∀ (bytes rest : List Byte) (i : Instr), decode bytes = .ok (i, rest) →
    i.isReceived = true ∧ i.wf = true ∧ ∃ e, encode i = some e ∧ bytes = e ++ rest

/-- Every transmitted-frame operation, with every operand its frame admits, is read back from its
frame. -/
def Obligations.TransmittedFramesDecodeBack : Prop :=
  ∀ i : Instr, i.isTransmitted = true → i.wf = true →
    ∃ e, encode i = some e ∧ decodeTx e = .ok i

/-- R114: what the writers write, `READ_FRAME` delivers and `CLASSIFY` classifies, and the fields
come back (the classes: the spec's decisions D8 to D11, LOG 21). -/
def Obligations.WrittenFramesReadBack : Prop :=
  ∀ (s : State) (rest : List Byte), s.InLoop →
    (∀ (asdu : Asdu) (ns nr : Seq), asdu.length ≤ 251 → s.rx = writeIFrame asdu ns nr ++ rest →
      ∃ t u f, exec .readFrame s = .next t ∧ t.rx = rest ∧ t.delivered = some (6 + asdu.length) ∧
        (∀ k, t.fb.read k = (writeIFrame asdu ns nr)[k]?) ∧
        exec (.classify (6 + asdu.length)) t = .next u ∧ u.cls = some .i ∧
        u.fetchFrame (6 + asdu.length) = some f ∧ frameFields f = some (ns, nr, asdu)) ∧
    (∀ nr : Seq, s.rx = writeSFrame nr ++ rest →
      ∃ t u lo hi, exec .readFrame s = .next t ∧ exec (.classify 6) t = .next u ∧
        u.cls = some .s ∧ u.fb.read 4 = some lo ∧ u.fb.read 5 = some hi ∧ decSeq lo hi = nr) ∧
    (∀ c1 c, (c1, c) ∈ [((0x0B : Byte), FrameClass.unknown), (0x23, .unknown), (0x83, .testfrCon),
        (0x43, .testfrAct)] → s.rx = [0x68, 0x04, c1, 0x00, 0x00, 0x00] ++ rest →
      ∃ t u, exec .readFrame s = .next t ∧ exec (.classify 6) t = .next u ∧ u.cls = some c)

/-! ### Frame Codec -/

/-- R100 with R54: every case of `READ_FRAME`. FB's content where no frame is delivered is left
open (R31). -/
def Obligations.ReadFrameCases : Prop :=
  ∀ s : State, s.InLoop →
    (s.rx = [] → s.rxEof = false →
      ∃ t, exec .readFrame s = .next t ∧
        t = { s with fb := t.fb, delivered := none, cls := t.cls }) ∧
    (s.rx = [] → s.rxEof = true →
      ∃ t, exec .readFrame s = .next t ∧
        t = { s with fb := t.fb, delivered := t.delivered, cls := t.cls, isRunning := false,
                     phase := .closing, log := s.log ++ [.closing 2 none] }) ∧
    (∀ b rest, s.rx = b :: rest → b ≠ 0x68 → s.badStartFatal = false →
      ∃ t, exec .readFrame s = .next t ∧
        t = { s with rx := rest, log := s.log ++ [.missingStartByte b],
                     fb := t.fb, delivered := none, cls := t.cls }) ∧
    ((s.rx = [0x68] ∨ ∃ (len : Byte) (part : List Byte), s.rx = 0x68 :: len :: part ∧
        part.length < len.toNat) →
      (s.rxEof = false → ∃ t, exec .readFrame s = .next t ∧
        t = { s with fb := t.fb, delivered := none, cls := t.cls }) ∧
      (s.rxEof = true → ∃ t, exec .readFrame s = .next t ∧
        t = { s with fb := t.fb, delivered := t.delivered, cls := t.cls, isRunning := false,
                     phase := .closing, log := s.log ++ [.closing 3 (some s.rx.length)] })) ∧
    (∀ (len : Byte) (body rest : List Byte), s.rx = 0x68 :: len :: body ++ rest →
      body.length = len.toNat →
      ∃ t, exec .readFrame s = .next t ∧
        t = { s with rx := rest, fb := t.fb, delivered := some (len.toNat + 2), cls := t.cls } ∧
        ∀ k, k < len.toNat + 2 → t.fb.read k = (0x68 :: len :: body)[k]?)

/-- R102: one byte that is no start byte is dropped and logged; no register changes; `READ_FRAME`
on such a byte is `RESYNC`. The premise is the spec's default of BAD_START_FATAL. -/
def Obligations.ResyncDropsOneByte : Prop :=
  ∀ (s : State) (b : Byte) (rest : List Byte), s.InLoop → s.badStartFatal = false →
    s.rx = b :: rest → b ≠ 0x68 →
    exec .readFrame s = exec .resync s ∧
    ∃ t, exec .resync s = .next t ∧
      t = { s with rx := rest, log := s.log ++ [.missingStartByte b],
                   fb := t.fb, delivered := none, cls := t.cls }

/-- The alternative of D39 (LOG 7): with BAD_START_FATAL a byte that is no start byte raises
`FramingError`, and nothing is consumed. -/
def Obligations.BadStartFatalRaises : Prop :=
  ∀ (s : State) (b : Byte) (rest : List Byte), s.InLoop → s.badStartFatal = true →
    s.rx = b :: rest → b ≠ 0x68 →
    exec .readFrame s = exec .resync s ∧
    ∃ t, exec .resync s = .next t ∧
      t = { s with isRunning := false, phase := .closing,
                   log := s.log ++ [.closing 3 (some s.rx.length)],
                   fb := t.fb, delivered := t.delivered, cls := t.cls }

/-- Delivery into FB (40_frame_codec.md section 1): the bytes of the frame, at their offsets, taken
from the head of RX. Beyond them FB has no value (the model's choice, LOG 8). -/
def Obligations.DeliveredFrameStandsInBuffer : Prop :=
  ∀ (s t : State) (n : Nat), exec .readFrame s = .next t → t.delivered = some n →
    ∃ f : Frame, s.rx = f ++ t.rx ∧ f.length = n ∧ 2 ≤ n ∧ n ≤ 257 ∧
      f[0]? = some 0x68 ∧ f[1]? = some (BitVec.ofNat 8 (n - 2)) ∧
      ∀ k, t.fb.read k = f[k]?

/-- R101's byte-serial view: `READ_FRAME` raises `FramingError` exactly when the stream ends in LEN
or BODY, and is silent on an open stream exactly there and on no bytes. -/
def Obligations.ReadFrameFollowsParserState : Prop :=
  ∀ s : State, s.InLoop → s.badStartFatal = false →
    ((∃ t, exec .readFrame s = .next t ∧ t.log = s.log ++ [.closing 3 (some s.rx.length)]) ↔
      s.rxEof = true ∧ parserState s.rx ≠ .hunt) ∧
    (s.rxEof = false →
      ((∃ t, exec .readFrame s = .next t ∧ t.rx = s.rx) ↔
        s.rx = [] ∨ parserState s.rx ≠ .hunt))

/-- R105: what `CLASSIFY` returns, and its one exception (the spec's decisions D8 to D11 and D13,
LOG 21). -/
def Obligations.ClassifyReturnsClass : Prop :=
  ∀ (s : State) (n : Nat), s.InLoop →
    (n < 3 → exec (.classify n) s = .next { s with
      isRunning := false, phase := .closing, log := s.log ++ [.closing 4 (some (n - 2))] }) ∧
    (∀ c1 : Byte, 3 ≤ n → s.fb.read 2 = some c1 →
      exec (.classify n) s = .next { s with cls := some (
        if c1.getLsbD 0 = false then .i
        else if c1 &&& 0x07 = 0x07 then .startdtAct
        else if c1 &&& 0x13 = 0x13 then .stopdtAct
        else if c1 &&& 0x43 = 0x43 then .testfrAct
        else if c1 &&& 0x83 = 0x83 then .testfrCon
        else if c1.getLsbD 1 = false then .s
        else .unknown) })

/-- R107: the I-frame writer. -/
def Obligations.TxIAppendsFrame : Prop :=
  ∀ (s : State) (asdu : Asdu) (ns nr : Seq), s.InLoop → asdu.length ≤ 251 →
    exec (.txI asdu ns nr) s = .next { s with
      tx := s.tx ++ [[0x68, BitVec.ofNat 8 (4 + asdu.length),
        BitVec.ofNat 8 (ns.toNat % 128 * 2), BitVec.ofNat 8 (ns.toNat / 128),
        BitVec.ofNat 8 (nr.toNat % 128 * 2), BitVec.ofNat 8 (nr.toNat / 128)] ++ asdu] }

/-- R108 and the literals of R109 to R112: the S-frame writer and the four constant frames. -/
def Obligations.FixedWritersAppendFrame : Prop :=
  ∀ s : State, s.InLoop →
    (∀ nr : Seq, exec (.txS nr) s = .next { s with
      tx := s.tx ++ [[0x68, 0x04, 0x01, 0x00,
        BitVec.ofNat 8 (nr.toNat % 128 * 2), BitVec.ofNat 8 (nr.toNat / 128)]] }) ∧
    exec .txStartdtCon s = .next { s with
      tx := s.tx ++ [[0x68, 0x04, 0x0B, 0x00, 0x00, 0x00]] } ∧
    exec .txStopdtCon s = .next { s with
      tx := s.tx ++ [[0x68, 0x04, 0x23, 0x00, 0x00, 0x00]] } ∧
    exec .txTestfrCon s = .next { s with
      tx := s.tx ++ [[0x68, 0x04, 0x83, 0x00, 0x00, 0x00]] } ∧
    exec .txTestfrAct s = .next { s with
      tx := s.tx ++ [[0x68, 0x04, 0x43, 0x00, 0x00, 0x00]] }

/-- Where an operation stops: operands outside what its rule gives it (LOG 8, LOG 31, LOG 23,
LOG 24). -/
def Obligations.OperandsOutsideRulesStop : Prop :=
  ∀ s : State, s.InLoop →
    (∀ n, 3 ≤ n → s.fb.read 2 = none → exec (.classify n) s = .fault (.fbUnspecified 2)) ∧
    (s.rx = [] → exec .resync s = .fault .rxUnderflow) ∧
    (∀ rest, s.rx = 0x68 :: rest → exec .resync s = .fault .notMisaligned) ∧
    (∀ asdu ns nr, 251 < asdu.length → exec (.txI asdu ns nr) s = .fault .asduTooLong) ∧
    (∀ f : RxFrame, s.iMinSize ≤ f.tail.length + 3 → f.tail.length < 3 →
      exec (.rxI f) s = .fault (.fbUnspecified (f.tail.length + 3)))

/-! ### Sequence Manager -/

/-- R130: stamp with the present counters, then advance; an over-long ASDU is refused (the
spec's decision D23). -/
def Obligations.SendIStampsThenAdvances : Prop :=
  ∀ (s : State) (asdu : Asdu), s.InLoop →
    (asdu.length ≤ 251 → ∃ t, exec (.sendI asdu) s = .next t ∧
      t = { s with
        sendCount := t.sendCount
        tx := s.tx ++ [0x68 :: BitVec.ofNat 8 (4 + asdu.length) :: encLo s.sendCount ::
          encHi s.sendCount :: encLo s.receiveCount :: encHi s.receiveCount :: asdu] } ∧
      t.sendCount.toNat = (s.sendCount.toNat + 1) % 32768) ∧
    (251 < asdu.length →
      exec (.sendI asdu) s = .next { s with log := s.log ++ [.asduTooLong] })

/-- R133: the S-frame, the count and the time. -/
def Obligations.SendSAcknowledges : Prop :=
  ∀ s : State, s.InLoop →
    exec .sendS s = .next { s with
      tx := s.tx ++ [[0x68, 0x04, 0x01, 0x00, encLo s.receiveCount, encHi s.receiveCount]]
      unconfirmedCount := 0
      lastConfirmationTime := s.timeRead
      now := s.timeRead
      clock := s.clock.tail }

/-- R134: strictly more than `w`, independent of T2. -/
def Obligations.ForceAckIsStrict : Prop :=
  ∀ s : State, s.InLoop →
    (s.w < s.unconfirmedCount → exec .forceAck s = .next { s with
      tx := s.tx ++ [[0x68, 0x04, 0x01, 0x00, encLo s.receiveCount, encHi s.receiveCount]]
      unconfirmedCount := 0
      lastConfirmationTime := s.timeRead
      now := s.timeRead
      clock := s.clock.tail }) ∧
    (s.unconfirmedCount ≤ s.w → exec .forceAck s = .next s)

/-- R131: the counting of a received I-frame, its exception (`n < I_MIN_SIZE`, the parameter of R6),
and the dispatch of its ASDU with the responses in list order. -/
def Obligations.ReceivedIFrameCountsAndDispatches : Prop :=
  ∀ (s : State) (f : RxFrame), s.InLoop →
    (f.tail.length + 3 < s.iMinSize → exec (.rxI f) s = .next { s with
      isRunning := false, phase := .closing
      log := s.log ++ [.closing 4 (some (f.tail.length + 1))] }) ∧
    (∀ c2 c3 c4 asdu, f.tail = c2 :: c3 :: c4 :: asdu → s.iMinSize ≤ f.tail.length + 3 →
      ∃ t, exec (.rxI f) s = .next t ∧
        t = { s with
          receiveCount := t.receiveCount, unconfirmedCount := s.unconfirmedCount + 1
          lastConfirmationTime := if s.unconfirmedCount = 0 then s.timeRead
            else s.lastConfirmationTime
          now := if s.unconfirmedCount = 0 then s.timeRead else s.now
          clock := if s.unconfirmedCount = 0 then s.clock.tail else s.clock
          sendCount := t.sendCount, tx := t.tx, log := t.log
          disp := t.disp, answers := t.answers, draws := t.draws } ∧
        t.receiveCount.toNat = (s.receiveCount.toNat + 1) % 32768 ∧
        (s.isActive = false →
          t.sendCount = s.sendCount ∧ t.tx = s.tx ∧ t.disp = s.disp ∧ t.answers = s.answers ∧
          t.draws = s.draws ∧ t.log = s.log ++ [.rxI (decSeq f.c1 c2) (decSeq c3 c4)]) ∧
        (s.isActive = true →
          ∃ responses : List Asdu,
            (∀ a as, s.answers = a :: as → responses = a ∧ t.answers = as ∧ t.draws = s.draws) ∧
            t.disp = s.disp ++ [asdu] ∧
            t.tx = s.tx ++ responseFrames s.sendCount t.receiveCount responses ∧
            t.sendCount.toNat = (s.sendCount.toNat +
              (responseFrames s.sendCount t.receiveCount responses).length) % 32768 ∧
            t.log = s.log ++ [.rxI (decSeq f.c1 c2) (decSeq c3 c4)] ++ responseLog responses))

/-- R132: a received S-frame is logged and changes no register. -/
def Obligations.ReceivedSFrameChangesNoRegister : Prop :=
  ∀ (s : State) (f : RxFrame), s.InLoop →
    (∀ c2 c3 c4 more, f.tail = c2 :: c3 :: c4 :: more →
      exec (.rxS f) s = .next { s with log := s.log ++ [.rxS (some (decSeq c3 c4))] }) ∧
    (f.tail.length < 3 → exec (.rxS f) s = .next { s with log := s.log ++ [.rxS none] })

/-- 44_asdu_dispatch_interface.md section on R194: each pseudo-operation is one `SEND_I`, of the
ASDU itself or of what the external codec makes of it (a free value, LOG 4). -/
def Obligations.PseudoOperationsSendOneIFrame : Prop :=
  ∀ (s : State) (asdu : Asdu) (negative : Bool), s.InLoop →
    (∀ (i : Instr) (a : Asdu),
      (i = .sendAsdu asdu ∧ a = asdu) ∨
      (i = .sendActCon asdu negative ∧ a = Config.codecActCon asdu negative) ∨
      (i = .sendActTerm asdu ∧ a = Config.codecActTerm asdu) →
      exec i s = exec (.sendI a) s ∧
      exec i s = .next (if a.length ≤ 251 then
          { s with
            sendCount := s.sendCount + 1
            tx := s.tx ++ [0x68 :: BitVec.ofNat 8 (4 + a.length) :: encLo s.sendCount ::
              encHi s.sendCount :: encLo s.receiveCount :: encHi s.receiveCount :: a] }
        else { s with log := s.log ++ [.asduTooLong] }))

/-- 41_sequence_manager.md section 5: N received I-frames advance `receiveCount` by N modulo 32768,
K sent I-frames advance `sendCount` by K and leave `receiveCount`. -/
def Obligations.CountersCountFrames : Prop :=
  (∀ (fs : List RxFrame) (s : State), s.InLoop →
    (∀ f ∈ fs, 3 ≤ f.tail.length ∧ s.iMinSize ≤ f.tail.length + 3) →
    ∃ t, execList (fs.map Instr.rxI) s = .next t ∧
      t.receiveCount.toNat = (s.receiveCount.toNat + fs.length) % 32768 ∧
      t.unconfirmedCount = s.unconfirmedCount + fs.length) ∧
  (∀ (as : List Asdu) (s : State), s.InLoop → (∀ a ∈ as, a.length ≤ 251) →
    ∃ t, execList (as.map Instr.sendI) s = .next t ∧
      t.sendCount.toNat = (s.sendCount.toNat + as.length) % 32768 ∧
      t.receiveCount = s.receiveCount ∧ t.tx.length = s.tx.length + as.length)

/-- 41_sequence_manager.md section 4: the peer's sequence numbers reach the log and nothing else. -/
def Obligations.PeerNumbersReachOnlyTheLog : Prop :=
  ∀ (s : State) (f g : RxFrame) (c2 c3 c4 d2 d3 d4 : Byte) (asdu : Asdu), s.InLoop →
    f.tail = c2 :: c3 :: c4 :: asdu → g.tail = d2 :: d3 :: d4 :: asdu →
    ∃ t u, exec (.rxI f) s = .next t ∧ exec (.rxI g) s = .next u ∧ u = { t with log := u.log }

/-! ### Timeout Supervisor -/

/-- R151's write: the deadline counted from the time read. -/
def Obligations.T3ResetMovesDeadline : Prop :=
  ∀ s : State, s.InLoop →
    exec .t3Reset s = .next { s with
      nextIdleTimeoutAt := s.timeRead + s.t3 * s.tps, now := s.timeRead, clock := s.clock.tail }

/-- R152: nothing up to the deadline, a probe after it, the verdict with more than PROBE_LIMIT
probes outstanding, 2 by R6 (strictly after: the spec's decision D16). -/
def Obligations.T3CheckProbesOrGivesVerdict : Prop :=
  ∀ s : State, s.InLoop →
    (s.timeRead ≤ s.nextIdleTimeoutAt →
      exec .t3Check s = .next { s with now := s.timeRead, clock := s.clock.tail }) ∧
    (s.nextIdleTimeoutAt < s.timeRead → s.outstandingTestProbes ≤ s.probeLimit →
      exec .t3Check s = .next { s with
        now := s.timeRead, clock := s.clock.tail
        tx := s.tx ++ [[0x68, 0x04, 0x43, 0x00, 0x00, 0x00]]
        outstandingTestProbes := s.outstandingTestProbes + 1
        nextIdleTimeoutAt := s.timeRead + s.t3 * s.tps }) ∧
    (s.nextIdleTimeoutAt < s.timeRead → s.probeLimit < s.outstandingTestProbes →
      exec .t3Check s = .next { s with
        now := s.timeRead, clock := s.clock.tail, isRunning := false, phase := .closing
        log := s.log ++ [.closing 5 (some s.outstandingTestProbes)] })

/-- R153: an S-frame when the oldest unacknowledged I-frame is `t2` old. `SEND_S` reads the time
again (LOG 14). -/
def Obligations.T2CheckAcknowledgesInTime : Prop :=
  ∀ s : State, s.InLoop →
    (s.unconfirmedCount = 0 →
      exec .t2Check s = .next { s with now := s.timeRead, clock := s.clock.tail }) ∧
    (s.lastConfirmationTime ≤ s.timeRead →
      s.timeRead - s.lastConfirmationTime < s.t2 * s.tps →
      exec .t2Check s = .next { s with now := s.timeRead, clock := s.clock.tail }) ∧
    (0 < s.unconfirmedCount → s.lastConfirmationTime ≤ s.timeRead →
      s.t2 * s.tps ≤ s.timeRead - s.lastConfirmationTime →
      exec .t2Check s = .next { s with
        now := s.timeRead + s.clock.tail.headD 0, clock := s.clock.tail.tail
        tx := s.tx ++ [[0x68, 0x04, 0x01, 0x00, encLo s.receiveCount, encHi s.receiveCount]]
        unconfirmedCount := 0
        lastConfirmationTime := s.timeRead + s.clock.tail.headD 0 })

/-- U5 (LOG 13): a time behind `lastConfirmationTime` stops T2 while it is active. -/
def Obligations.TimeGoingBackStopsT2 : Prop :=
  ∀ s : State, s.InLoop → 0 < s.unconfirmedCount → s.timeRead < s.lastConfirmationTime →
    exec .t2Check s = .fault .timeWentBack

/-- 42_timeout_supervisor.md section 4: on an idle link whose peer stays silent, with the PROBE_LIMIT
of R6, each of the first three expiries gives one probe and the fourth the move to CLOSING. Each
advance passes the deadline then in force. -/
def Obligations.SilentPeerIsProbedThriceThenClosed : Prop :=
  ∀ (s : State) (d1 d2 d3 d4 : Nat), s.phase = .running → s.isRunning = true → s.rx = [] →
    s.rxEof = false → s.unconfirmedCount = 0 → s.outstandingTestProbes = 0 → s.probeLimit = 2 →
    (s.isActive = false ∨ s.oq = []) → s.clock = [] → s.nextIdleTimeoutAt < s.now + d1 →
    s.t3 * s.tps < d2 → s.t3 * s.tps < d3 → s.t3 * s.tps < d4 →
    s.sched = [.advance d1, .worker, .advance d2, .worker, .advance d3, .worker, .advance d4,
      .worker] →
    (∀ k, k = 1 ∨ k = 2 ∨ k = 3 →
      ∃ u, Host.Core.run Sys2Proof.core (2 * k) s = .next u ∧ u.phase = .running ∧
        u.outstandingTestProbes = k ∧ u.log = s.log ∧
        u.tx = s.tx ++ List.replicate k [0x68, 0x04, 0x43, 0x00, 0x00, 0x00]) ∧
    ∃ t, Host.Core.run Sys2Proof.core 8 s = .next t ∧ t.phase = .closing ∧
      t.tx = s.tx ++ List.replicate 3 [0x68, 0x04, 0x43, 0x00, 0x00, 0x00] ∧
      t.log = s.log ++ [.closing 5 (some 3)] ∧ t.outstandingTestProbes = 3

/-! ### Control-Function Handler -/

/-- R170, R171: the confirmation and the mode, from either mode. -/
def Obligations.StartAndStopConfirmAndSwitch : Prop :=
  ∀ (s : State) (f : RxFrame), s.InLoop →
    exec (.rxStartdtAct f) s = .next { s with
      tx := s.tx ++ [[0x68, 0x04, 0x0B, 0x00, 0x00, 0x00]], isActive := true } ∧
    exec (.rxStopdtAct f) s = .next { s with
      tx := s.tx ++ [[0x68, 0x04, 0x23, 0x00, 0x00, 0x00]], isActive := false }

/-- R172, R173: a test is answered, a confirmation clears the whole probe count. -/
def Obligations.TestFramesAnsweredOrCleared : Prop :=
  ∀ (s : State) (f : RxFrame), s.InLoop →
    exec (.rxTestfrAct f) s = .next { s with
      tx := s.tx ++ [[0x68, 0x04, 0x83, 0x00, 0x00, 0x00]] } ∧
    exec (.rxTestfrCon f) s = .next { s with outstandingTestProbes := 0 }

/-- R174, R175: an unknown octet, a received STARTDT_CON or STOPDT_CON among them, is logged and
otherwise ignored. -/
def Obligations.UnknownOctetsAreOnlyLogged : Prop :=
  (∀ (s : State) (f : RxFrame), s.InLoop →
    exec (.rxUnknown f) s = .next { s with log := s.log ++ [.unknownControl f.c1] }) ∧
  classOf 0x03 = .unknown ∧ classOf 0x0B = .unknown ∧ classOf 0x23 = .unknown ∧
  classOf 0x2B = .unknown

/-- 43_control_function.md R177's machine: the mode is entered and left only by STARTDT_ACT and
STOPDT_ACT, whether an operation or a step of the machine is taken. -/
def Obligations.OnlyStartAndStopSwitchTheMode : Prop :=
  (∀ (i : Instr) (s t : State), i ≠ .iterate → exec i s = .next t →
    t.isActive = (match i with
      | .rxStartdtAct _ => true
      | .rxStopdtAct _ => false
      | _ => s.isActive)) ∧
  (∀ s t : State, step s = .next t → t.isActive ≠ s.isActive →
    ∃ f rest, decode s.rx =
      .ok (if t.isActive then .rxStartdtAct f else .rxStopdtAct f, rest))

/-! ### Connection Driver -/

/-- R204: only while active, at most one ASDU, sent by `SEND_I` (an over-long one is lost: the
spec's decision D23). -/
def Obligations.QueueSendTakesAtMostOne : Prop :=
  ∀ s : State, s.InLoop →
    (s.isActive = false → exec .queueSend s = .next s) ∧
    (s.oq = [] → exec .queueSend s = .next s) ∧
    (∀ a q, s.isActive = true → s.oq = a :: q →
      (a.length ≤ 251 → exec .queueSend s = .next { s with
        oq := q
        sendCount := s.sendCount + 1
        tx := s.tx ++ [0x68 :: BitVec.ofNat 8 (4 + a.length) :: encLo s.sendCount ::
          encHi s.sendCount :: encLo s.receiveCount :: encHi s.receiveCount :: a] }) ∧
      (251 < a.length → exec .queueSend s = .next { s with
        oq := q, log := s.log ++ [.asduTooLong] }))

/-- R236, R202: a close request seen at step 0 ends the iteration before anything is read or sent. -/
def Obligations.CloseRequestRaisesAtStepZero : Prop :=
  ∀ s : State, s.InLoop → s.isRunning = false →
    exec .iterate s = .next { s with
      phase := .closing, log := s.log ++ [.closing 1 none] } ∧
    ((s.sched = [] ∨ ∃ ms, s.sched = .worker :: ms) → step s = .next { s with
      sched := s.sched.tail, phase := .closing, log := s.log ++ [.closing 1 none] })

/-- A step runs the decoded instruction: when RX holds a frame that decodes to `i`, the worker's
step is `exec i` on the state with the frame delivered and classified, then `T3_RESET`, the end of
FB's window, and steps 2 to 5; a raise ends it. -/
def Obligations.StepRunsDecodedInstruction : Prop :=
  ∀ (s : State) (i : Instr) (rest : List Byte), s.InLoop → s.isRunning = true →
    (s.sched = [] ∨ ∃ ms, s.sched = .worker :: ms) → decode s.rx = .ok (i, rest) →
    ∃ (m : Memory) (n : Nat) (c : FrameClass),
      s.rx = s.rx.take n ++ rest ∧ encode i = some (s.rx.take n) ∧
      (∀ k, m.read k = (s.rx.take n)[k]?) ∧ (∃ f, i = receivedInstr c f) ∧
      step s =
        andThen
          (mapNext State.closeWindow
            (andThen
              (exec i { s with
                sched := s.sched.tail, phase := .running, rx := rest, fb := m,
                delivered := some n, cls := some c })
              (exec .t3Reset)))
          fun u => andThen (exec .queueSend u) fun u => andThen (exec .forceAck u) fun u =>
            andThen (exec .t3Check u) (exec .t2Check)

/-- Without a complete frame the worker's step runs steps 2 to 5 all the same: on no byte or an
incomplete frame of an open stream nothing is read (R54), and a byte that is no start byte is dropped
and logged, whether or not the stream has ended (R102, with the spec's default of BAD_START_FATAL).
(An ended stream with no byte or an incomplete frame raises: RaiseInStepOneEndsIteration.) -/
def Obligations.StepWithoutFrameRunsTheRest : Prop :=
  ∀ s : State, s.InLoop → s.isRunning = true →
    (s.sched = [] ∨ ∃ ms, s.sched = .worker :: ms) →
    let v : State := { s with
      sched := s.sched.tail, phase := .running, fb := [], delivered := none, cls := none }
    let rest := fun u => andThen (exec .queueSend u) fun u => andThen (exec .forceAck u) fun u =>
      andThen (exec .t3Check u) (exec .t2Check)
    (s.rxEof = false → (s.rx = [] ∨ parserState s.rx ≠ .hunt) → step s = rest v) ∧
    (∀ b more, s.rx = b :: more → b ≠ 0x68 → s.badStartFatal = false →
      step s = rest { v with rx := more, log := s.log ++ [.missingStartByte b] })

/-- R209: `ITERATE` is total: in the loop, with the time not behind `lastConfirmationTime` and an
I_MIN_SIZE that covers the control octets (LOG 31), it answers a next state, RUNNING or CLOSING. -/
def Obligations.IterateIsTotal : Prop :=
  ∀ s : State, s.InLoop → s.lastConfirmationTime ≤ s.now → 6 ≤ s.iMinSize →
    ∃ t, exec .iterate s = .next t ∧ (t.phase = .running ∨ t.phase = .closing)

/-- An iteration with no frame, nothing to send and no timer due changes `phase` and the time
inputs only: nothing is sent unprompted. -/
def Obligations.IdleIterationSendsNothing : Prop :=
  ∀ s : State, s.InLoop → s.isRunning = true → s.rx = [] → s.rxEof = false →
    (s.isActive = false ∨ s.oq = []) → s.unconfirmedCount = 0 →
    s.timeRead + s.clock.tail.headD 0 ≤ s.nextIdleTimeoutAt →
    exec .iterate s = .next { s with
      phase := .running, fb := [], delivered := none, cls := none
      now := s.timeRead + s.clock.tail.headD 0, clock := s.clock.tail.tail }

/-- R208 with R232 to R234: a raise in step 1 ends the iteration: no timer, queue or acknowledgment
step runs, what was consumed stays consumed. -/
def Obligations.RaiseInStepOneEndsIteration : Prop :=
  ∀ s : State, s.InLoop → s.isRunning = true →
    (s.rx = [] → s.rxEof = true →
      exec .iterate s = .next { s with
        fb := [], delivered := none, cls := none, isRunning := false, phase := .closing
        log := s.log ++ [.closing 2 none] }) ∧
    (s.rxEof = true → (s.rx = [0x68] ∨ ∃ (len : Byte) (part : List Byte),
        s.rx = 0x68 :: len :: part ∧ part.length < len.toNat) →
      exec .iterate s = .next { s with
        fb := [], delivered := none, cls := none, isRunning := false, phase := .closing
        log := s.log ++ [.closing 3 (some s.rx.length)] }) ∧
    (∀ rest, s.rx = 0x68 :: 0x00 :: rest →
      exec .iterate s = .next { s with
        rx := rest, fb := [], delivered := none, cls := none, isRunning := false
        phase := .closing, log := s.log ++ [.closing 4 (some 0)] }) ∧
    (∀ (len c1 : Byte) (tail rest : List Byte), s.rx = 0x68 :: len :: c1 :: tail ++ rest →
      c1.getLsbD 0 = false → tail.length + 1 = len.toNat → len.toNat + 2 < s.iMinSize →
      exec .iterate s = .next { s with
        rx := rest, fb := [], delivered := none, cls := none, isRunning := false
        phase := .closing, log := s.log ++ [.closing 4 (some len.toNat)] })

/-- The order of transmission in one iteration (20_memory.md section 6): the reply of step 1, the
queued I-frame, the forced S-frame, the probe, the T2 S-frame; at most one S-frame. -/
def Obligations.IterationTransmitsInStepOrder : Prop :=
  ∀ s t : State, exec .iterate s = .next t →
    ∃ reply queued forced probe acked : List Frame,
      t.tx = s.tx ++ reply ++ queued ++ forced ++ probe ++ acked ∧
      ((∃ f, reply = [f] ∧ IsConfirmation f) ∨ ∀ f ∈ reply, IsIFrame f) ∧
      queued.length ≤ 1 ∧ (∀ f ∈ queued, IsIFrame f) ∧
      forced.length + acked.length ≤ 1 ∧ (∀ f ∈ forced ++ acked, IsSFrame f) ∧
      probe.length ≤ 1 ∧ ∀ f ∈ probe, IsProbe f

/-- R243: the closing step. In CLOSING the worker's turn is this step (R200): a run does not end
there. -/
def Obligations.DoCloseClosesAndDeregisters : Prop :=
  ∀ s : State,
    (s.phase = .closing →
      exec .doClose s = .next { s with
        rxEof := true, rx := [], out := s.out ++ [.sockClose, .deregister], phase := .closed } ∧
      ((s.sched = [] ∨ ∃ ms, s.sched = .worker :: ms) → step s = .next { s with
        sched := s.sched.tail, rxEof := true, rx := []
        out := s.out ++ [.sockClose, .deregister], phase := .closed })) ∧
    (s.phase ≠ .closing → exec .doClose s = .fault .closeNotEnabled)

/-- R211, R212: the host commands, in every state. -/
def Obligations.HostCommandsTouchOneFlag : Prop :=
  ∀ s : State,
    exec .close s = .next { s with isRunning := false } ∧ exec .notify s = .next s

/-- R213: the environment's moves; none is a step of the worker. An append after the end of the
stream is no move (refused), after CLOSED it is ignored (LOG 12). -/
def Obligations.EnvironmentMovesTouchPortsOnly : Prop :=
  ∀ (s : State) (m : Move) (ms : List Move), s.sched = m :: ms →
    (∀ bytes, m = .rx bytes → s.phase ≠ .closed → s.rxEof = false →
      step s = .next { s with sched := ms, rx := s.rx ++ bytes }) ∧
    (∀ bytes, m = .rx bytes → s.phase ≠ .closed → s.rxEof = true →
      step s = .refused .rxAfterEof) ∧
    (∀ bytes, m = .rx bytes → s.phase = .closed → step s = .next { s with sched := ms }) ∧
    (m = .rxEof → step s = .next { s with sched := ms, rxEof := true }) ∧
    (∀ a, m = .enq a → step s = .next { s with sched := ms, oq := s.oq ++ [a] }) ∧
    (m = .close → step s = .next { s with sched := ms, isRunning := false }) ∧
    (m = .notify → step s = .next { s with sched := ms }) ∧
    (∀ d, m = .advance d → step s = .next { s with sched := ms, now := s.now + d })

/-! ### Whole-machine rules -/

/-- R41, R261: reset over any configuration inputs (the counters, the deadline, isRunning, RX and TX
are the spec's decisions D4 to D7, LOG 6). -/
def Obligations.ResetGivesTheStatedValues : Prop :=
  ∀ p : Params,
    let s := State.resetWith p
    s.sendCount = 0 ∧ s.receiveCount = 0 ∧ s.unconfirmedCount = 0 ∧
      s.outstandingTestProbes = 0 ∧ s.lastConfirmationTime = p.t0 ∧
      s.nextIdleTimeoutAt = p.t0 + p.t3 * p.tps ∧ s.isActive = false ∧ s.isRunning = true ∧
      s.phase = .started ∧ s.t2 = p.t2 ∧ s.t3 = p.t3 ∧ s.w = p.w ∧ s.tps = p.tps ∧
      s.rx = [] ∧ s.rxEof = false ∧ s.tx = [] ∧ s.oq = p.oq

/-- The invariant holds at reset, for every configuration with `w`, TPS and I_MIN_SIZE in their
ranges, whatever the external queue holds. -/
def Obligations.ResetMeetsInvariant : Prop :=
  ∀ p : Params, p.legal → (State.resetWith p).Inv

/-- Every step, the worker's and the environment's, keeps the invariant of Safety.lean: the bounds
of R40, the counts of R21 and R22, the frames of R113, the outputs of R244, FB's window of R31. -/
def Obligations.StepKeepsInvariant : Prop :=
  ∀ s t : State, s.Inv → step s = .next t → t.Inv

/-- R29's transitions, with what causes each: the loop is entered with `isRunning` set; a raise, whose
log event is the step's last, goes to CLOSING; `DO_CLOSE` goes to CLOSED. No other step moves
`phase`. -/
def Obligations.PhaseMovesOnlyForward : Prop :=
  ∀ s t : State, step s = .next t → t.phase ≠ s.phase →
    (s.phase = .started ∧ s.isRunning = true ∧ t.phase = .running) ∨
    (s.InLoop ∧ t.phase = .closing ∧ t.isRunning = false ∧
      ∃ (l : List LogEvent) (code : Nat) (info : Option Nat),
        1 ≤ code ∧ code ≤ 5 ∧ t.log = s.log ++ l ++ [.closing code info]) ∨
    (s.phase = .closing ∧ t.phase = .closed ∧ t.out = s.out ++ [.sockClose, .deregister])

/-- R200, R214 (LOG 10, LOG 11): in CLOSING and CLOSED no operation of the worker but `DO_CLOSE` is
executed, and in CLOSED the worker has no step. -/
def Obligations.NothingRunsAfterClosing : Prop :=
  ∀ s : State, s.phase = .closing ∨ s.phase = .closed →
    (∀ i : Instr, i ≠ .doClose → i ≠ .close → i ≠ .notify →
      exec i s = .fault .workerNotEnabled) ∧
    (s.phase = .closed → (s.sched = [] ∨ ∃ ms, s.sched = .worker :: ms) →
      step s = .fault .runOver)

/-- R242: in CLOSING and CLOSED the registers show the state at the raise, whatever step is
taken. -/
def Obligations.ClosingKeepsRegisters : Prop :=
  ∀ s t : State, s.phase = .closing ∨ s.phase = .closed → step s = .next t →
    t.sendCount = s.sendCount ∧ t.receiveCount = s.receiveCount ∧
      t.unconfirmedCount = s.unconfirmedCount ∧
      t.outstandingTestProbes = s.outstandingTestProbes ∧
      t.lastConfirmationTime = s.lastConfirmationTime ∧
      t.nextIdleTimeoutAt = s.nextIdleTimeoutAt ∧ t.isActive = s.isActive ∧ t.tx = s.tx ∧
      t.log = s.log ∧ t.disp = s.disp

/-- R30, R273, U15: no operation and no step writes a parameter. -/
def Obligations.ParametersAreFrozen : Prop :=
  ∀ s t : State, (step s = .next t ∨ ∃ i, exec i s = .next t) →
    t.t2 = s.t2 ∧ t.t3 = s.t3 ∧ t.w = s.w ∧ t.tps = s.tps ∧
      t.iMinSize = s.iMinSize ∧ t.probeLimit = s.probeLimit ∧ t.badStartFatal = s.badStartFatal

/-- R33, R35, R113: a step only appends to TX, only frames of the six forms, and `sendCount`
advances by the number of I-frames among them (every frame is transmitted: the spec's decision D22,
LOG 16). -/
def Obligations.StepAppendsOnlyCountedFrames : Prop :=
  ∀ s t : State, step s = .next t →
    ∃ new : List Frame, t.tx = s.tx ++ new ∧ (∀ f ∈ new, Transmittable f) ∧
      t.sendCount.toNat = (s.sendCount.toNat + countIFrames new) % 32768

/-- 70_reset_and_hazards.md R265's first sentence: a step of the worker takes from RX nothing, one
byte that is no start byte, or one frame, and from the queue at most one ASDU. -/
def Obligations.OneFrameAndOneAsduPerIteration : Prop :=
  ∀ s t : State, exec .iterate s = .next t →
    (s.rx = t.rx ∨ (∃ b, b ≠ 0x68 ∧ s.rx = b :: t.rx) ∨
      ∃ (len : Byte) (body : List Byte), body.length = len.toNat ∧
        s.rx = 0x68 :: len :: body ++ t.rx) ∧
    (s.oq = t.oq ∨ ∃ a, s.oq = a :: t.oq)

/-- The access matrix of 10_state.md section 10, its writes: which operations may change which
item. A raise is trap entry inside the operation that raises. -/
def Obligations.OnlyTheMatrixWritesState : Prop :=
  ∀ (i : Instr) (s t : State), exec i s = .next t → i ≠ .iterate →
    (t.sendCount ≠ s.sendCount → match i with
      | .rxI _ | .sendI _ | .queueSend | .sendAsdu _ | .sendActCon _ _ | .sendActTerm _ => True
      | _ => False) ∧
    (t.receiveCount ≠ s.receiveCount → ∃ f, i = .rxI f) ∧
    (t.unconfirmedCount ≠ s.unconfirmedCount → match i with
      | .rxI _ | .sendS | .forceAck | .t2Check => True
      | _ => False) ∧
    (t.outstandingTestProbes ≠ s.outstandingTestProbes → match i with
      | .rxTestfrCon _ | .t3Check => True
      | _ => False) ∧
    (t.lastConfirmationTime ≠ s.lastConfirmationTime → match i with
      | .rxI _ | .sendS | .forceAck | .t2Check => True
      | _ => False) ∧
    (t.nextIdleTimeoutAt ≠ s.nextIdleTimeoutAt → i = .t3Reset ∨ i = .t3Check) ∧
    (t.isRunning ≠ s.isRunning → match i with
      | .rxI _ | .readFrame | .resync | .classify _ | .t3Check | .close => True
      | _ => False) ∧
    (t.phase ≠ s.phase → match i with
      | .rxI _ | .readFrame | .resync | .classify _ | .t3Check | .doClose => True
      | _ => False) ∧
    (t.rx ≠ s.rx → i = .readFrame ∨ i = .resync ∨ i = .doClose) ∧
    (t.rxEof ≠ s.rxEof → i = .doClose) ∧
    (t.oq ≠ s.oq → i = .queueSend) ∧
    (t.out ≠ s.out → i = .doClose) ∧
    (t.tx ≠ s.tx → match i with
      | .rxI _ | .rxStartdtAct _ | .rxStopdtAct _ | .rxTestfrAct _ | .txI _ _ _ | .txS _
      | .txStartdtCon | .txStopdtCon | .txTestfrCon | .txTestfrAct | .sendI _ | .sendS
      | .forceAck | .t3Check | .t2Check | .queueSend | .sendAsdu _ | .sendActCon _ _
      | .sendActTerm _ => True
      | _ => False)

/-- FB keeps its canonical form, and no operation but `READ_FRAME` and `RESYNC` changes any byte of
it (`ITERATE` leaves it without content). -/
def Obligations.BufferWrittenOnlyByTheReader : Prop :=
  ∀ (i : Instr) (s t : State), exec i s = .next t →
    (s.fb.wf → t.fb.wf) ∧
    (i ≠ .readFrame → i ≠ .resync → i ≠ .iterate → ∀ a, t.fb.read a = s.fb.read a) ∧
    (i = .iterate → s.isRunning = true → ∀ a, t.fb.read a = none)
end

