-- ==== Sys2Proof/Laws/Decode.lean ====
section
/-! SUPPORT. Lemmas about the codec: sequence fields, the head of a byte stream, the decoder. -/

namespace Sys2Proof

theorem encLo_toNat (n : Seq) : (encLo n).toNat = n.toNat % 128 * 2 := by
  simp only [encLo, BitVec.toNat_ofNat]
  omega

theorem encHi_toNat (n : Seq) : (encHi n).toNat = n.toNat / 128 := by
  have := n.isLt
  simp only [encHi, BitVec.toNat_ofNat]
  omega

theorem decSeq_toNat (lo hi : Byte) : (decSeq lo hi).toNat = lo.toNat / 2 + hi.toNat * 128 := by
  have := lo.isLt
  have := hi.isLt
  simp only [decSeq, BitVec.toNat_ofNat]
  omega

@[simp] theorem decSeq_enc (n : Seq) : decSeq (encLo n) (encHi n) = n := by
  apply BitVec.eq_of_toNat_eq
  rw [decSeq_toNat, encLo_toNat, encHi_toNat]
  omega

/-- The format bit of a low byte is 0. -/
@[simp] theorem encLo_and_one (n : Seq) : encLo n &&& 0x01#8 = 0x00#8 := by
  apply BitVec.eq_of_toNat_eq
  have h : (0x01#8 : Byte).toNat = 2 ^ 1 - 1 := rfl
  rw [BitVec.toNat_and, h, Nat.and_two_pow_sub_one_eq_mod, encLo_toNat]
  simp

/-- A first control octet with format bit 0 has class I. -/
theorem classOf_of_even {c1 : Byte} (h : c1 &&& 0x01#8 = 0x00#8) : classOf c1 = .i := by
  simp [classOf, h]

theorem classOf_eq_i {c1 : Byte} (h : classOf c1 = .i) : c1 &&& 0x01#8 = 0x00#8 := by
  revert c1
  decide

/-- The head of a frame's bytes and whatever follows is that frame. -/
@[simp] theorem headOf_frameOf (body rest : List Byte) (h : body.length ≤ 255) :
    headOf (frameOf body ++ rest) = .whole body rest := by
  have : body.length % 256 = body.length := Nat.mod_eq_of_lt (by omega)
  simp [headOf, frameOf, startByte, this]

/-- The head of a stream that is no start byte (R53). -/
theorem headOf_of_ne {b : Byte} (rest : List Byte) (h : b ≠ startByte) :
    headOf (b :: rest) = .badStart b rest := by
  simp only [headOf]
  rw [if_pos h]

/-- The parser holds bytes of a frame exactly when the head is incomplete (R101, R54). -/
theorem parserState_ne_hunt (rx : List Byte) :
    parserState rx ≠ .hunt ↔ headOf rx = .incomplete rx.length := by
  unfold parserState headOf
  rcases rx with _ | ⟨b, _ | ⟨l, rest⟩⟩
  · simp
  · simp only; split <;> simp
  · simp only
    split
    · simp
    · split <;> simp

/-- A start byte without its whole frame is an incomplete head (R54). -/
theorem headOf_part {rx : List Byte} (h : rx = [0x68] ∨ ∃ (len : Byte) (part : List Byte),
    rx = 0x68 :: len :: part ∧ part.length < len.toNat) : headOf rx = .incomplete rx.length := by
  rcases h with rfl | ⟨len, part, rfl, h⟩
  · rfl
  · simp [headOf, startByte, h]

/-- A frame by its length byte and body (R70). -/
theorem frameOf_of_length {len : Byte} {body : List Byte} (h : body.length = len.toNat) :
    0x68 :: len :: body = frameOf body := by
  simp [frameOf, h, startByte]

/-- What each answer of `headOf` says of the bytes. -/
theorem headOf_empty {bytes : List Byte} (h : headOf bytes = .empty) : bytes = [] := by
  unfold headOf at h
  repeat' split at h
  all_goals first | rfl | cases h

theorem headOf_badStart {bytes rest : List Byte} {b : Byte} (h : headOf bytes = .badStart b rest) :
    bytes = b :: rest ∧ b ≠ startByte := by
  unfold headOf at h
  repeat' split at h
  all_goals first | (cases h; exact ⟨rfl, ‹_›⟩) | cases h

theorem headOf_incomplete {bytes : List Byte} {k : Nat} (h : headOf bytes = .incomplete k) :
    k = bytes.length ∧ (bytes = [startByte] ∨ ∃ len rest, bytes = startByte :: len :: rest ∧
      rest.length < len.toNat) := by
  unfold headOf at h
  split at h
  · cases h
  · rename_i b more
    split at h
    · cases h
    · rename_i hb
      have hb : b = startByte := by simpa using hb
      subst hb
      split at h
      · cases h; exact ⟨rfl, .inl rfl⟩
      · split at h
        · cases h; exact ⟨rfl, .inr ⟨_, _, rfl, ‹_›⟩⟩
        · cases h

theorem headOf_whole {bytes body rest : List Byte} (h : headOf bytes = .whole body rest) :
    bytes = frameOf body ++ rest ∧ body.length ≤ 255 := by
  unfold headOf at h
  split at h
  · cases h
  · rename_i b more
    split at h
    · cases h
    · rename_i hb
      have hb : b = startByte := by simpa using hb
      subst hb
      split at h
      · cases h
      · rename_i len tl
        split at h
        · cases h
        · rename_i hl
          cases h
          have := len.isLt
          refine ⟨?_, ?_⟩
          · have : (List.take len.toNat tl).length = len.toNat := by simp; omega
            simp [frameOf, this]
          · simp; omega

/-- The decoder on a frame that has a first control octet. -/
theorem decode_frameOf (c1 : Byte) (tail rest : List Byte) (h : tail.length ≤ 254) :
    decode (frameOf (c1 :: tail) ++ rest) = .ok (receivedInstr (classOf c1) ⟨c1, tail⟩, rest) := by
  simp only [decode]
  rw [headOf_frameOf _ _ (by simp; omega)]

/-- What the decoder has read. -/
theorem decode_ok {bytes rest : List Byte} {i : Instr} (h : decode bytes = .ok (i, rest)) :
    ∃ c1 tail, tail.length ≤ 254 ∧ bytes = frameOf (c1 :: tail) ++ rest ∧
      i = receivedInstr (classOf c1) ⟨c1, tail⟩ := by
  unfold decode at h
  split at h <;> cases h
  rename_i hh
  obtain ⟨hb, hl⟩ := headOf_whole hh
  exact ⟨_, _, by simp at hl; omega, hb, rfl⟩

/-- A received operation's frame and class. -/
theorem encode_receivedInstr (c : FrameClass) (f : RxFrame) :
    encode (receivedInstr c f) = some (frameOf (f.c1 :: f.tail)) := by
  cases c <;> rfl

theorem wf_receivedInstr (c : FrameClass) (f : RxFrame) : (receivedInstr c f).wf = f.wf c := by
  cases c <;> rfl

theorem isReceived_receivedInstr (c : FrameClass) (f : RxFrame) :
    (receivedInstr c f).isReceived = true := by
  cases c <;> rfl

/-- Every received operation is that of a class. -/
theorem isReceived_cases {i : Instr} (h : i.isReceived = true) :
    ∃ c f, i = receivedInstr c f := by
  cases i with
  | rxI f => exact ⟨.i, f, rfl⟩
  | rxStartdtAct f => exact ⟨.startdtAct, f, rfl⟩
  | rxStopdtAct f => exact ⟨.stopdtAct, f, rfl⟩
  | rxTestfrAct f => exact ⟨.testfrAct, f, rfl⟩
  | rxTestfrCon f => exact ⟨.testfrCon, f, rfl⟩
  | rxS f => exact ⟨.s, f, rfl⟩
  | rxUnknown f => exact ⟨.unknown, f, rfl⟩
  | _ => cases h

theorem RxFrame.wf_iff (f : RxFrame) (c : FrameClass) :
    f.wf c = true ↔ classOf f.c1 = c ∧ f.tail.length ≤ 254 := by
  simp [RxFrame.wf]

/-- The I-frame writer as a frame of a body. -/
theorem writeIFrame_eq (asdu : Asdu) (ns nr : Seq) :
    writeIFrame asdu ns nr
      = frameOf (encLo ns :: encHi ns :: encLo nr :: encHi nr :: asdu) := by
  simp only [writeIFrame, frameOf, List.length_cons, List.cons_append, List.nil_append]
  rw [Nat.add_comm 4]

theorem writeSFrame_eq (nr : Seq) :
    writeSFrame nr = frameOf [0x01, 0x00, encLo nr, encHi nr] := rfl

theorem writeUFrame_eq (c1 : Byte) : writeUFrame c1 = frameOf [c1, 0x00, 0x00, 0x00] := rfl

end Sys2Proof
end

