-- ==== Sys2Proof/Laws/State.lean ====
section
/-! SUPPORT. One lemma per field per update of the state: what each shared operation leaves and what
it writes. Later proofs cite these and unfold no record update. -/

namespace Sys2Proof.Machine

/-! ### The end of FB's window -/

@[simp] theorem State.closeWindow_sendCount (s : State) :
    (s.closeWindow).sendCount = s.sendCount :=
  rfl

@[simp] theorem State.closeWindow_receiveCount (s : State) :
    (s.closeWindow).receiveCount = s.receiveCount :=
  rfl

@[simp] theorem State.closeWindow_unconfirmedCount (s : State) :
    (s.closeWindow).unconfirmedCount = s.unconfirmedCount :=
  rfl

@[simp] theorem State.closeWindow_outstandingTestProbes (s : State) :
    (s.closeWindow).outstandingTestProbes = s.outstandingTestProbes :=
  rfl

@[simp] theorem State.closeWindow_lastConfirmationTime (s : State) :
    (s.closeWindow).lastConfirmationTime = s.lastConfirmationTime :=
  rfl

@[simp] theorem State.closeWindow_nextIdleTimeoutAt (s : State) :
    (s.closeWindow).nextIdleTimeoutAt = s.nextIdleTimeoutAt :=
  rfl

@[simp] theorem State.closeWindow_isActive (s : State) :
    (s.closeWindow).isActive = s.isActive :=
  rfl

@[simp] theorem State.closeWindow_isRunning (s : State) :
    (s.closeWindow).isRunning = s.isRunning :=
  rfl

@[simp] theorem State.closeWindow_phase (s : State) :
    (s.closeWindow).phase = s.phase :=
  rfl

@[simp] theorem State.closeWindow_t2 (s : State) :
    (s.closeWindow).t2 = s.t2 :=
  rfl

@[simp] theorem State.closeWindow_t3 (s : State) :
    (s.closeWindow).t3 = s.t3 :=
  rfl

@[simp] theorem State.closeWindow_w (s : State) :
    (s.closeWindow).w = s.w :=
  rfl

@[simp] theorem State.closeWindow_tps (s : State) :
    (s.closeWindow).tps = s.tps :=
  rfl

@[simp] theorem State.closeWindow_iMinSize (s : State) :
    (s.closeWindow).iMinSize = s.iMinSize :=
  rfl

@[simp] theorem State.closeWindow_probeLimit (s : State) :
    (s.closeWindow).probeLimit = s.probeLimit :=
  rfl

@[simp] theorem State.closeWindow_badStartFatal (s : State) :
    (s.closeWindow).badStartFatal = s.badStartFatal :=
  rfl

@[simp] theorem State.closeWindow_fb (s : State) :
    (s.closeWindow).fb = [] :=
  rfl

@[simp] theorem State.closeWindow_rx (s : State) :
    (s.closeWindow).rx = s.rx :=
  rfl

@[simp] theorem State.closeWindow_rxEof (s : State) :
    (s.closeWindow).rxEof = s.rxEof :=
  rfl

@[simp] theorem State.closeWindow_tx (s : State) :
    (s.closeWindow).tx = s.tx :=
  rfl

@[simp] theorem State.closeWindow_oq (s : State) :
    (s.closeWindow).oq = s.oq :=
  rfl

@[simp] theorem State.closeWindow_disp (s : State) :
    (s.closeWindow).disp = s.disp :=
  rfl

@[simp] theorem State.closeWindow_answers (s : State) :
    (s.closeWindow).answers = s.answers :=
  rfl

@[simp] theorem State.closeWindow_draws (s : State) :
    (s.closeWindow).draws = s.draws :=
  rfl

@[simp] theorem State.closeWindow_log (s : State) :
    (s.closeWindow).log = s.log :=
  rfl

@[simp] theorem State.closeWindow_out (s : State) :
    (s.closeWindow).out = s.out :=
  rfl

@[simp] theorem State.closeWindow_now (s : State) :
    (s.closeWindow).now = s.now :=
  rfl

@[simp] theorem State.closeWindow_clock (s : State) :
    (s.closeWindow).clock = s.clock :=
  rfl

@[simp] theorem State.closeWindow_sched (s : State) :
    (s.closeWindow).sched = s.sched :=
  rfl

@[simp] theorem State.closeWindow_delivered (s : State) :
    (s.closeWindow).delivered = none :=
  rfl

@[simp] theorem State.closeWindow_cls (s : State) :
    (s.closeWindow).cls = none :=
  rfl

/-! ### The class found -/

@[simp] theorem State.setClass_sendCount (s : State) (c : FrameClass) :
    (s.setClass c).sendCount = s.sendCount :=
  rfl

@[simp] theorem State.setClass_receiveCount (s : State) (c : FrameClass) :
    (s.setClass c).receiveCount = s.receiveCount :=
  rfl

@[simp] theorem State.setClass_unconfirmedCount (s : State) (c : FrameClass) :
    (s.setClass c).unconfirmedCount = s.unconfirmedCount :=
  rfl

@[simp] theorem State.setClass_outstandingTestProbes (s : State) (c : FrameClass) :
    (s.setClass c).outstandingTestProbes = s.outstandingTestProbes :=
  rfl

@[simp] theorem State.setClass_lastConfirmationTime (s : State) (c : FrameClass) :
    (s.setClass c).lastConfirmationTime = s.lastConfirmationTime :=
  rfl

@[simp] theorem State.setClass_nextIdleTimeoutAt (s : State) (c : FrameClass) :
    (s.setClass c).nextIdleTimeoutAt = s.nextIdleTimeoutAt :=
  rfl

@[simp] theorem State.setClass_isActive (s : State) (c : FrameClass) :
    (s.setClass c).isActive = s.isActive :=
  rfl

@[simp] theorem State.setClass_isRunning (s : State) (c : FrameClass) :
    (s.setClass c).isRunning = s.isRunning :=
  rfl

@[simp] theorem State.setClass_phase (s : State) (c : FrameClass) :
    (s.setClass c).phase = s.phase :=
  rfl

@[simp] theorem State.setClass_t2 (s : State) (c : FrameClass) :
    (s.setClass c).t2 = s.t2 :=
  rfl

@[simp] theorem State.setClass_t3 (s : State) (c : FrameClass) :
    (s.setClass c).t3 = s.t3 :=
  rfl

@[simp] theorem State.setClass_w (s : State) (c : FrameClass) :
    (s.setClass c).w = s.w :=
  rfl

@[simp] theorem State.setClass_tps (s : State) (c : FrameClass) :
    (s.setClass c).tps = s.tps :=
  rfl

@[simp] theorem State.setClass_iMinSize (s : State) (c : FrameClass) :
    (s.setClass c).iMinSize = s.iMinSize :=
  rfl

@[simp] theorem State.setClass_probeLimit (s : State) (c : FrameClass) :
    (s.setClass c).probeLimit = s.probeLimit :=
  rfl

@[simp] theorem State.setClass_badStartFatal (s : State) (c : FrameClass) :
    (s.setClass c).badStartFatal = s.badStartFatal :=
  rfl

@[simp] theorem State.setClass_fb (s : State) (c : FrameClass) :
    (s.setClass c).fb = s.fb :=
  rfl

@[simp] theorem State.setClass_rx (s : State) (c : FrameClass) :
    (s.setClass c).rx = s.rx :=
  rfl

@[simp] theorem State.setClass_rxEof (s : State) (c : FrameClass) :
    (s.setClass c).rxEof = s.rxEof :=
  rfl

@[simp] theorem State.setClass_tx (s : State) (c : FrameClass) :
    (s.setClass c).tx = s.tx :=
  rfl

@[simp] theorem State.setClass_oq (s : State) (c : FrameClass) :
    (s.setClass c).oq = s.oq :=
  rfl

@[simp] theorem State.setClass_disp (s : State) (c : FrameClass) :
    (s.setClass c).disp = s.disp :=
  rfl

@[simp] theorem State.setClass_answers (s : State) (c : FrameClass) :
    (s.setClass c).answers = s.answers :=
  rfl

@[simp] theorem State.setClass_draws (s : State) (c : FrameClass) :
    (s.setClass c).draws = s.draws :=
  rfl

@[simp] theorem State.setClass_log (s : State) (c : FrameClass) :
    (s.setClass c).log = s.log :=
  rfl

@[simp] theorem State.setClass_out (s : State) (c : FrameClass) :
    (s.setClass c).out = s.out :=
  rfl

@[simp] theorem State.setClass_now (s : State) (c : FrameClass) :
    (s.setClass c).now = s.now :=
  rfl

@[simp] theorem State.setClass_clock (s : State) (c : FrameClass) :
    (s.setClass c).clock = s.clock :=
  rfl

@[simp] theorem State.setClass_sched (s : State) (c : FrameClass) :
    (s.setClass c).sched = s.sched :=
  rfl

@[simp] theorem State.setClass_delivered (s : State) (c : FrameClass) :
    (s.setClass c).delivered = s.delivered :=
  rfl

@[simp] theorem State.setClass_cls (s : State) (c : FrameClass) :
    (s.setClass c).cls = some c :=
  rfl

/-! ### TxAppend -/

@[simp] theorem State.txAppend_sendCount (s : State) (f : Frame) :
    (s.txAppend f).sendCount = s.sendCount :=
  rfl

@[simp] theorem State.txAppend_receiveCount (s : State) (f : Frame) :
    (s.txAppend f).receiveCount = s.receiveCount :=
  rfl

@[simp] theorem State.txAppend_unconfirmedCount (s : State) (f : Frame) :
    (s.txAppend f).unconfirmedCount = s.unconfirmedCount :=
  rfl

@[simp] theorem State.txAppend_outstandingTestProbes (s : State) (f : Frame) :
    (s.txAppend f).outstandingTestProbes = s.outstandingTestProbes :=
  rfl

@[simp] theorem State.txAppend_lastConfirmationTime (s : State) (f : Frame) :
    (s.txAppend f).lastConfirmationTime = s.lastConfirmationTime :=
  rfl

@[simp] theorem State.txAppend_nextIdleTimeoutAt (s : State) (f : Frame) :
    (s.txAppend f).nextIdleTimeoutAt = s.nextIdleTimeoutAt :=
  rfl

@[simp] theorem State.txAppend_isActive (s : State) (f : Frame) :
    (s.txAppend f).isActive = s.isActive :=
  rfl

@[simp] theorem State.txAppend_isRunning (s : State) (f : Frame) :
    (s.txAppend f).isRunning = s.isRunning :=
  rfl

@[simp] theorem State.txAppend_phase (s : State) (f : Frame) :
    (s.txAppend f).phase = s.phase :=
  rfl

@[simp] theorem State.txAppend_t2 (s : State) (f : Frame) :
    (s.txAppend f).t2 = s.t2 :=
  rfl

@[simp] theorem State.txAppend_t3 (s : State) (f : Frame) :
    (s.txAppend f).t3 = s.t3 :=
  rfl

@[simp] theorem State.txAppend_w (s : State) (f : Frame) :
    (s.txAppend f).w = s.w :=
  rfl

@[simp] theorem State.txAppend_tps (s : State) (f : Frame) :
    (s.txAppend f).tps = s.tps :=
  rfl

@[simp] theorem State.txAppend_iMinSize (s : State) (f : Frame) :
    (s.txAppend f).iMinSize = s.iMinSize :=
  rfl

@[simp] theorem State.txAppend_probeLimit (s : State) (f : Frame) :
    (s.txAppend f).probeLimit = s.probeLimit :=
  rfl

@[simp] theorem State.txAppend_badStartFatal (s : State) (f : Frame) :
    (s.txAppend f).badStartFatal = s.badStartFatal :=
  rfl

@[simp] theorem State.txAppend_fb (s : State) (f : Frame) :
    (s.txAppend f).fb = s.fb :=
  rfl

@[simp] theorem State.txAppend_rx (s : State) (f : Frame) :
    (s.txAppend f).rx = s.rx :=
  rfl

@[simp] theorem State.txAppend_rxEof (s : State) (f : Frame) :
    (s.txAppend f).rxEof = s.rxEof :=
  rfl

@[simp] theorem State.txAppend_tx (s : State) (f : Frame) :
    (s.txAppend f).tx = s.tx ++ [f] :=
  rfl

@[simp] theorem State.txAppend_oq (s : State) (f : Frame) :
    (s.txAppend f).oq = s.oq :=
  rfl

@[simp] theorem State.txAppend_disp (s : State) (f : Frame) :
    (s.txAppend f).disp = s.disp :=
  rfl

@[simp] theorem State.txAppend_answers (s : State) (f : Frame) :
    (s.txAppend f).answers = s.answers :=
  rfl

@[simp] theorem State.txAppend_draws (s : State) (f : Frame) :
    (s.txAppend f).draws = s.draws :=
  rfl

@[simp] theorem State.txAppend_log (s : State) (f : Frame) :
    (s.txAppend f).log = s.log :=
  rfl

@[simp] theorem State.txAppend_out (s : State) (f : Frame) :
    (s.txAppend f).out = s.out :=
  rfl

@[simp] theorem State.txAppend_now (s : State) (f : Frame) :
    (s.txAppend f).now = s.now :=
  rfl

@[simp] theorem State.txAppend_clock (s : State) (f : Frame) :
    (s.txAppend f).clock = s.clock :=
  rfl

@[simp] theorem State.txAppend_sched (s : State) (f : Frame) :
    (s.txAppend f).sched = s.sched :=
  rfl

@[simp] theorem State.txAppend_delivered (s : State) (f : Frame) :
    (s.txAppend f).delivered = s.delivered :=
  rfl

@[simp] theorem State.txAppend_cls (s : State) (f : Frame) :
    (s.txAppend f).cls = s.cls :=
  rfl

/-! ### Log -/

@[simp] theorem State.logEvent_sendCount (s : State) (e : LogEvent) :
    (s.logEvent e).sendCount = s.sendCount :=
  rfl

@[simp] theorem State.logEvent_receiveCount (s : State) (e : LogEvent) :
    (s.logEvent e).receiveCount = s.receiveCount :=
  rfl

@[simp] theorem State.logEvent_unconfirmedCount (s : State) (e : LogEvent) :
    (s.logEvent e).unconfirmedCount = s.unconfirmedCount :=
  rfl

@[simp] theorem State.logEvent_outstandingTestProbes (s : State) (e : LogEvent) :
    (s.logEvent e).outstandingTestProbes = s.outstandingTestProbes :=
  rfl

@[simp] theorem State.logEvent_lastConfirmationTime (s : State) (e : LogEvent) :
    (s.logEvent e).lastConfirmationTime = s.lastConfirmationTime :=
  rfl

@[simp] theorem State.logEvent_nextIdleTimeoutAt (s : State) (e : LogEvent) :
    (s.logEvent e).nextIdleTimeoutAt = s.nextIdleTimeoutAt :=
  rfl

@[simp] theorem State.logEvent_isActive (s : State) (e : LogEvent) :
    (s.logEvent e).isActive = s.isActive :=
  rfl

@[simp] theorem State.logEvent_isRunning (s : State) (e : LogEvent) :
    (s.logEvent e).isRunning = s.isRunning :=
  rfl

@[simp] theorem State.logEvent_phase (s : State) (e : LogEvent) :
    (s.logEvent e).phase = s.phase :=
  rfl

@[simp] theorem State.logEvent_t2 (s : State) (e : LogEvent) :
    (s.logEvent e).t2 = s.t2 :=
  rfl

@[simp] theorem State.logEvent_t3 (s : State) (e : LogEvent) :
    (s.logEvent e).t3 = s.t3 :=
  rfl

@[simp] theorem State.logEvent_w (s : State) (e : LogEvent) :
    (s.logEvent e).w = s.w :=
  rfl

@[simp] theorem State.logEvent_tps (s : State) (e : LogEvent) :
    (s.logEvent e).tps = s.tps :=
  rfl

@[simp] theorem State.logEvent_iMinSize (s : State) (e : LogEvent) :
    (s.logEvent e).iMinSize = s.iMinSize :=
  rfl

@[simp] theorem State.logEvent_probeLimit (s : State) (e : LogEvent) :
    (s.logEvent e).probeLimit = s.probeLimit :=
  rfl

@[simp] theorem State.logEvent_badStartFatal (s : State) (e : LogEvent) :
    (s.logEvent e).badStartFatal = s.badStartFatal :=
  rfl

@[simp] theorem State.logEvent_fb (s : State) (e : LogEvent) :
    (s.logEvent e).fb = s.fb :=
  rfl

@[simp] theorem State.logEvent_rx (s : State) (e : LogEvent) :
    (s.logEvent e).rx = s.rx :=
  rfl

@[simp] theorem State.logEvent_rxEof (s : State) (e : LogEvent) :
    (s.logEvent e).rxEof = s.rxEof :=
  rfl

@[simp] theorem State.logEvent_tx (s : State) (e : LogEvent) :
    (s.logEvent e).tx = s.tx :=
  rfl

@[simp] theorem State.logEvent_oq (s : State) (e : LogEvent) :
    (s.logEvent e).oq = s.oq :=
  rfl

@[simp] theorem State.logEvent_disp (s : State) (e : LogEvent) :
    (s.logEvent e).disp = s.disp :=
  rfl

@[simp] theorem State.logEvent_answers (s : State) (e : LogEvent) :
    (s.logEvent e).answers = s.answers :=
  rfl

@[simp] theorem State.logEvent_draws (s : State) (e : LogEvent) :
    (s.logEvent e).draws = s.draws :=
  rfl

@[simp] theorem State.logEvent_log (s : State) (e : LogEvent) :
    (s.logEvent e).log = s.log ++ [e] :=
  rfl

@[simp] theorem State.logEvent_out (s : State) (e : LogEvent) :
    (s.logEvent e).out = s.out :=
  rfl

@[simp] theorem State.logEvent_now (s : State) (e : LogEvent) :
    (s.logEvent e).now = s.now :=
  rfl

@[simp] theorem State.logEvent_clock (s : State) (e : LogEvent) :
    (s.logEvent e).clock = s.clock :=
  rfl

@[simp] theorem State.logEvent_sched (s : State) (e : LogEvent) :
    (s.logEvent e).sched = s.sched :=
  rfl

@[simp] theorem State.logEvent_delivered (s : State) (e : LogEvent) :
    (s.logEvent e).delivered = s.delivered :=
  rfl

@[simp] theorem State.logEvent_cls (s : State) (e : LogEvent) :
    (s.logEvent e).cls = s.cls :=
  rfl

/-! ### Delivery of a frame -/

@[simp] theorem State.deliver_sendCount (s : State) (body : List Byte) (rest : List Byte) :
    (s.deliver body rest).sendCount = s.sendCount :=
  rfl

@[simp] theorem State.deliver_receiveCount (s : State) (body : List Byte) (rest : List Byte) :
    (s.deliver body rest).receiveCount = s.receiveCount :=
  rfl

@[simp] theorem State.deliver_unconfirmedCount (s : State) (body : List Byte) (rest : List Byte) :
    (s.deliver body rest).unconfirmedCount = s.unconfirmedCount :=
  rfl

@[simp] theorem State.deliver_outstandingTestProbes (s : State) (body : List Byte) (rest : List Byte) :
    (s.deliver body rest).outstandingTestProbes = s.outstandingTestProbes :=
  rfl

@[simp] theorem State.deliver_lastConfirmationTime (s : State) (body : List Byte) (rest : List Byte) :
    (s.deliver body rest).lastConfirmationTime = s.lastConfirmationTime :=
  rfl

@[simp] theorem State.deliver_nextIdleTimeoutAt (s : State) (body : List Byte) (rest : List Byte) :
    (s.deliver body rest).nextIdleTimeoutAt = s.nextIdleTimeoutAt :=
  rfl

@[simp] theorem State.deliver_isActive (s : State) (body : List Byte) (rest : List Byte) :
    (s.deliver body rest).isActive = s.isActive :=
  rfl

@[simp] theorem State.deliver_isRunning (s : State) (body : List Byte) (rest : List Byte) :
    (s.deliver body rest).isRunning = s.isRunning :=
  rfl

@[simp] theorem State.deliver_phase (s : State) (body : List Byte) (rest : List Byte) :
    (s.deliver body rest).phase = s.phase :=
  rfl

@[simp] theorem State.deliver_t2 (s : State) (body : List Byte) (rest : List Byte) :
    (s.deliver body rest).t2 = s.t2 :=
  rfl

@[simp] theorem State.deliver_t3 (s : State) (body : List Byte) (rest : List Byte) :
    (s.deliver body rest).t3 = s.t3 :=
  rfl

@[simp] theorem State.deliver_w (s : State) (body : List Byte) (rest : List Byte) :
    (s.deliver body rest).w = s.w :=
  rfl

@[simp] theorem State.deliver_tps (s : State) (body : List Byte) (rest : List Byte) :
    (s.deliver body rest).tps = s.tps :=
  rfl

@[simp] theorem State.deliver_iMinSize (s : State) (body : List Byte) (rest : List Byte) :
    (s.deliver body rest).iMinSize = s.iMinSize :=
  rfl

@[simp] theorem State.deliver_probeLimit (s : State) (body : List Byte) (rest : List Byte) :
    (s.deliver body rest).probeLimit = s.probeLimit :=
  rfl

@[simp] theorem State.deliver_badStartFatal (s : State) (body : List Byte) (rest : List Byte) :
    (s.deliver body rest).badStartFatal = s.badStartFatal :=
  rfl

@[simp] theorem State.deliver_fb (s : State) (body : List Byte) (rest : List Byte) :
    (s.deliver body rest).fb = Memory.writeList [] 0 (frameOf body) :=
  rfl

@[simp] theorem State.deliver_rx (s : State) (body : List Byte) (rest : List Byte) :
    (s.deliver body rest).rx = rest :=
  rfl

@[simp] theorem State.deliver_rxEof (s : State) (body : List Byte) (rest : List Byte) :
    (s.deliver body rest).rxEof = s.rxEof :=
  rfl

@[simp] theorem State.deliver_tx (s : State) (body : List Byte) (rest : List Byte) :
    (s.deliver body rest).tx = s.tx :=
  rfl

@[simp] theorem State.deliver_oq (s : State) (body : List Byte) (rest : List Byte) :
    (s.deliver body rest).oq = s.oq :=
  rfl

@[simp] theorem State.deliver_disp (s : State) (body : List Byte) (rest : List Byte) :
    (s.deliver body rest).disp = s.disp :=
  rfl

@[simp] theorem State.deliver_answers (s : State) (body : List Byte) (rest : List Byte) :
    (s.deliver body rest).answers = s.answers :=
  rfl

@[simp] theorem State.deliver_draws (s : State) (body : List Byte) (rest : List Byte) :
    (s.deliver body rest).draws = s.draws :=
  rfl

@[simp] theorem State.deliver_log (s : State) (body : List Byte) (rest : List Byte) :
    (s.deliver body rest).log = s.log :=
  rfl

@[simp] theorem State.deliver_out (s : State) (body : List Byte) (rest : List Byte) :
    (s.deliver body rest).out = s.out :=
  rfl

@[simp] theorem State.deliver_now (s : State) (body : List Byte) (rest : List Byte) :
    (s.deliver body rest).now = s.now :=
  rfl

@[simp] theorem State.deliver_clock (s : State) (body : List Byte) (rest : List Byte) :
    (s.deliver body rest).clock = s.clock :=
  rfl

@[simp] theorem State.deliver_sched (s : State) (body : List Byte) (rest : List Byte) :
    (s.deliver body rest).sched = s.sched :=
  rfl

@[simp] theorem State.deliver_delivered (s : State) (body : List Byte) (rest : List Byte) :
    (s.deliver body rest).delivered = some (body.length + 2) :=
  rfl

@[simp] theorem State.deliver_cls (s : State) (body : List Byte) (rest : List Byte) :
    (s.deliver body rest).cls = none :=
  rfl

/-! ### Trap entry -/

@[simp] theorem State.trapEntry_sendCount (s : State) (x : Cause) :
    (s.trapEntry x).sendCount = s.sendCount :=
  rfl

@[simp] theorem State.trapEntry_receiveCount (s : State) (x : Cause) :
    (s.trapEntry x).receiveCount = s.receiveCount :=
  rfl

@[simp] theorem State.trapEntry_unconfirmedCount (s : State) (x : Cause) :
    (s.trapEntry x).unconfirmedCount = s.unconfirmedCount :=
  rfl

@[simp] theorem State.trapEntry_outstandingTestProbes (s : State) (x : Cause) :
    (s.trapEntry x).outstandingTestProbes = s.outstandingTestProbes :=
  rfl

@[simp] theorem State.trapEntry_lastConfirmationTime (s : State) (x : Cause) :
    (s.trapEntry x).lastConfirmationTime = s.lastConfirmationTime :=
  rfl

@[simp] theorem State.trapEntry_nextIdleTimeoutAt (s : State) (x : Cause) :
    (s.trapEntry x).nextIdleTimeoutAt = s.nextIdleTimeoutAt :=
  rfl

@[simp] theorem State.trapEntry_isActive (s : State) (x : Cause) :
    (s.trapEntry x).isActive = s.isActive :=
  rfl

@[simp] theorem State.trapEntry_isRunning (s : State) (x : Cause) :
    (s.trapEntry x).isRunning = false :=
  rfl

@[simp] theorem State.trapEntry_phase (s : State) (x : Cause) :
    (s.trapEntry x).phase = .closing :=
  rfl

@[simp] theorem State.trapEntry_t2 (s : State) (x : Cause) :
    (s.trapEntry x).t2 = s.t2 :=
  rfl

@[simp] theorem State.trapEntry_t3 (s : State) (x : Cause) :
    (s.trapEntry x).t3 = s.t3 :=
  rfl

@[simp] theorem State.trapEntry_w (s : State) (x : Cause) :
    (s.trapEntry x).w = s.w :=
  rfl

@[simp] theorem State.trapEntry_tps (s : State) (x : Cause) :
    (s.trapEntry x).tps = s.tps :=
  rfl

@[simp] theorem State.trapEntry_iMinSize (s : State) (x : Cause) :
    (s.trapEntry x).iMinSize = s.iMinSize :=
  rfl

@[simp] theorem State.trapEntry_probeLimit (s : State) (x : Cause) :
    (s.trapEntry x).probeLimit = s.probeLimit :=
  rfl

@[simp] theorem State.trapEntry_badStartFatal (s : State) (x : Cause) :
    (s.trapEntry x).badStartFatal = s.badStartFatal :=
  rfl

@[simp] theorem State.trapEntry_fb (s : State) (x : Cause) :
    (s.trapEntry x).fb = s.fb :=
  rfl

@[simp] theorem State.trapEntry_rx (s : State) (x : Cause) :
    (s.trapEntry x).rx = s.rx :=
  rfl

@[simp] theorem State.trapEntry_rxEof (s : State) (x : Cause) :
    (s.trapEntry x).rxEof = s.rxEof :=
  rfl

@[simp] theorem State.trapEntry_tx (s : State) (x : Cause) :
    (s.trapEntry x).tx = s.tx :=
  rfl

@[simp] theorem State.trapEntry_oq (s : State) (x : Cause) :
    (s.trapEntry x).oq = s.oq :=
  rfl

@[simp] theorem State.trapEntry_disp (s : State) (x : Cause) :
    (s.trapEntry x).disp = s.disp :=
  rfl

@[simp] theorem State.trapEntry_answers (s : State) (x : Cause) :
    (s.trapEntry x).answers = s.answers :=
  rfl

@[simp] theorem State.trapEntry_draws (s : State) (x : Cause) :
    (s.trapEntry x).draws = s.draws :=
  rfl

@[simp] theorem State.trapEntry_log (s : State) (x : Cause) :
    (s.trapEntry x).log = s.log ++ [.closing x.code x.info] :=
  rfl

@[simp] theorem State.trapEntry_out (s : State) (x : Cause) :
    (s.trapEntry x).out = s.out :=
  rfl

@[simp] theorem State.trapEntry_now (s : State) (x : Cause) :
    (s.trapEntry x).now = s.now :=
  rfl

@[simp] theorem State.trapEntry_clock (s : State) (x : Cause) :
    (s.trapEntry x).clock = s.clock :=
  rfl

@[simp] theorem State.trapEntry_sched (s : State) (x : Cause) :
    (s.trapEntry x).sched = s.sched :=
  rfl

@[simp] theorem State.trapEntry_delivered (s : State) (x : Cause) :
    (s.trapEntry x).delivered = s.delivered :=
  rfl

@[simp] theorem State.trapEntry_cls (s : State) (x : Cause) :
    (s.trapEntry x).cls = s.cls :=
  rfl

/-! ### The data-transfer mode -/

@[simp] theorem State.setActive_sendCount (s : State) (b : Bool) :
    (s.setActive b).sendCount = s.sendCount :=
  rfl

@[simp] theorem State.setActive_receiveCount (s : State) (b : Bool) :
    (s.setActive b).receiveCount = s.receiveCount :=
  rfl

@[simp] theorem State.setActive_unconfirmedCount (s : State) (b : Bool) :
    (s.setActive b).unconfirmedCount = s.unconfirmedCount :=
  rfl

@[simp] theorem State.setActive_outstandingTestProbes (s : State) (b : Bool) :
    (s.setActive b).outstandingTestProbes = s.outstandingTestProbes :=
  rfl

@[simp] theorem State.setActive_lastConfirmationTime (s : State) (b : Bool) :
    (s.setActive b).lastConfirmationTime = s.lastConfirmationTime :=
  rfl

@[simp] theorem State.setActive_nextIdleTimeoutAt (s : State) (b : Bool) :
    (s.setActive b).nextIdleTimeoutAt = s.nextIdleTimeoutAt :=
  rfl

@[simp] theorem State.setActive_isActive (s : State) (b : Bool) :
    (s.setActive b).isActive = b :=
  rfl

@[simp] theorem State.setActive_isRunning (s : State) (b : Bool) :
    (s.setActive b).isRunning = s.isRunning :=
  rfl

@[simp] theorem State.setActive_phase (s : State) (b : Bool) :
    (s.setActive b).phase = s.phase :=
  rfl

@[simp] theorem State.setActive_t2 (s : State) (b : Bool) :
    (s.setActive b).t2 = s.t2 :=
  rfl

@[simp] theorem State.setActive_t3 (s : State) (b : Bool) :
    (s.setActive b).t3 = s.t3 :=
  rfl

@[simp] theorem State.setActive_w (s : State) (b : Bool) :
    (s.setActive b).w = s.w :=
  rfl

@[simp] theorem State.setActive_tps (s : State) (b : Bool) :
    (s.setActive b).tps = s.tps :=
  rfl

@[simp] theorem State.setActive_iMinSize (s : State) (b : Bool) :
    (s.setActive b).iMinSize = s.iMinSize :=
  rfl

@[simp] theorem State.setActive_probeLimit (s : State) (b : Bool) :
    (s.setActive b).probeLimit = s.probeLimit :=
  rfl

@[simp] theorem State.setActive_badStartFatal (s : State) (b : Bool) :
    (s.setActive b).badStartFatal = s.badStartFatal :=
  rfl

@[simp] theorem State.setActive_fb (s : State) (b : Bool) :
    (s.setActive b).fb = s.fb :=
  rfl

@[simp] theorem State.setActive_rx (s : State) (b : Bool) :
    (s.setActive b).rx = s.rx :=
  rfl

@[simp] theorem State.setActive_rxEof (s : State) (b : Bool) :
    (s.setActive b).rxEof = s.rxEof :=
  rfl

@[simp] theorem State.setActive_tx (s : State) (b : Bool) :
    (s.setActive b).tx = s.tx :=
  rfl

@[simp] theorem State.setActive_oq (s : State) (b : Bool) :
    (s.setActive b).oq = s.oq :=
  rfl

@[simp] theorem State.setActive_disp (s : State) (b : Bool) :
    (s.setActive b).disp = s.disp :=
  rfl

@[simp] theorem State.setActive_answers (s : State) (b : Bool) :
    (s.setActive b).answers = s.answers :=
  rfl

@[simp] theorem State.setActive_draws (s : State) (b : Bool) :
    (s.setActive b).draws = s.draws :=
  rfl

@[simp] theorem State.setActive_log (s : State) (b : Bool) :
    (s.setActive b).log = s.log :=
  rfl

@[simp] theorem State.setActive_out (s : State) (b : Bool) :
    (s.setActive b).out = s.out :=
  rfl

@[simp] theorem State.setActive_now (s : State) (b : Bool) :
    (s.setActive b).now = s.now :=
  rfl

@[simp] theorem State.setActive_clock (s : State) (b : Bool) :
    (s.setActive b).clock = s.clock :=
  rfl

@[simp] theorem State.setActive_sched (s : State) (b : Bool) :
    (s.setActive b).sched = s.sched :=
  rfl

@[simp] theorem State.setActive_delivered (s : State) (b : Bool) :
    (s.setActive b).delivered = s.delivered :=
  rfl

@[simp] theorem State.setActive_cls (s : State) (b : Bool) :
    (s.setActive b).cls = s.cls :=
  rfl

/-! ### The idle deadline -/

@[simp] theorem State.setIdleDeadline_sendCount (s : State) :
    (s.setIdleDeadline).sendCount = s.sendCount :=
  rfl

@[simp] theorem State.setIdleDeadline_receiveCount (s : State) :
    (s.setIdleDeadline).receiveCount = s.receiveCount :=
  rfl

@[simp] theorem State.setIdleDeadline_unconfirmedCount (s : State) :
    (s.setIdleDeadline).unconfirmedCount = s.unconfirmedCount :=
  rfl

@[simp] theorem State.setIdleDeadline_outstandingTestProbes (s : State) :
    (s.setIdleDeadline).outstandingTestProbes = s.outstandingTestProbes :=
  rfl

@[simp] theorem State.setIdleDeadline_lastConfirmationTime (s : State) :
    (s.setIdleDeadline).lastConfirmationTime = s.lastConfirmationTime :=
  rfl

@[simp] theorem State.setIdleDeadline_nextIdleTimeoutAt (s : State) :
    (s.setIdleDeadline).nextIdleTimeoutAt = s.now + s.t3 * s.tps :=
  rfl

@[simp] theorem State.setIdleDeadline_isActive (s : State) :
    (s.setIdleDeadline).isActive = s.isActive :=
  rfl

@[simp] theorem State.setIdleDeadline_isRunning (s : State) :
    (s.setIdleDeadline).isRunning = s.isRunning :=
  rfl

@[simp] theorem State.setIdleDeadline_phase (s : State) :
    (s.setIdleDeadline).phase = s.phase :=
  rfl

@[simp] theorem State.setIdleDeadline_t2 (s : State) :
    (s.setIdleDeadline).t2 = s.t2 :=
  rfl

@[simp] theorem State.setIdleDeadline_t3 (s : State) :
    (s.setIdleDeadline).t3 = s.t3 :=
  rfl

@[simp] theorem State.setIdleDeadline_w (s : State) :
    (s.setIdleDeadline).w = s.w :=
  rfl

@[simp] theorem State.setIdleDeadline_tps (s : State) :
    (s.setIdleDeadline).tps = s.tps :=
  rfl

@[simp] theorem State.setIdleDeadline_iMinSize (s : State) :
    (s.setIdleDeadline).iMinSize = s.iMinSize :=
  rfl

@[simp] theorem State.setIdleDeadline_probeLimit (s : State) :
    (s.setIdleDeadline).probeLimit = s.probeLimit :=
  rfl

@[simp] theorem State.setIdleDeadline_badStartFatal (s : State) :
    (s.setIdleDeadline).badStartFatal = s.badStartFatal :=
  rfl

@[simp] theorem State.setIdleDeadline_fb (s : State) :
    (s.setIdleDeadline).fb = s.fb :=
  rfl

@[simp] theorem State.setIdleDeadline_rx (s : State) :
    (s.setIdleDeadline).rx = s.rx :=
  rfl

@[simp] theorem State.setIdleDeadline_rxEof (s : State) :
    (s.setIdleDeadline).rxEof = s.rxEof :=
  rfl

@[simp] theorem State.setIdleDeadline_tx (s : State) :
    (s.setIdleDeadline).tx = s.tx :=
  rfl

@[simp] theorem State.setIdleDeadline_oq (s : State) :
    (s.setIdleDeadline).oq = s.oq :=
  rfl

@[simp] theorem State.setIdleDeadline_disp (s : State) :
    (s.setIdleDeadline).disp = s.disp :=
  rfl

@[simp] theorem State.setIdleDeadline_answers (s : State) :
    (s.setIdleDeadline).answers = s.answers :=
  rfl

@[simp] theorem State.setIdleDeadline_draws (s : State) :
    (s.setIdleDeadline).draws = s.draws :=
  rfl

@[simp] theorem State.setIdleDeadline_log (s : State) :
    (s.setIdleDeadline).log = s.log :=
  rfl

@[simp] theorem State.setIdleDeadline_out (s : State) :
    (s.setIdleDeadline).out = s.out :=
  rfl

@[simp] theorem State.setIdleDeadline_now (s : State) :
    (s.setIdleDeadline).now = s.now :=
  rfl

@[simp] theorem State.setIdleDeadline_clock (s : State) :
    (s.setIdleDeadline).clock = s.clock :=
  rfl

@[simp] theorem State.setIdleDeadline_sched (s : State) :
    (s.setIdleDeadline).sched = s.sched :=
  rfl

@[simp] theorem State.setIdleDeadline_delivered (s : State) :
    (s.setIdleDeadline).delivered = s.delivered :=
  rfl

@[simp] theorem State.setIdleDeadline_cls (s : State) :
    (s.setIdleDeadline).cls = s.cls :=
  rfl

/-! ### One time read -/

@[simp] theorem State.sample_sendCount (s : State) :
    (s.sample).sendCount = s.sendCount := by
  unfold State.sample; split <;> rfl

@[simp] theorem State.sample_receiveCount (s : State) :
    (s.sample).receiveCount = s.receiveCount := by
  unfold State.sample; split <;> rfl

@[simp] theorem State.sample_unconfirmedCount (s : State) :
    (s.sample).unconfirmedCount = s.unconfirmedCount := by
  unfold State.sample; split <;> rfl

@[simp] theorem State.sample_outstandingTestProbes (s : State) :
    (s.sample).outstandingTestProbes = s.outstandingTestProbes := by
  unfold State.sample; split <;> rfl

@[simp] theorem State.sample_lastConfirmationTime (s : State) :
    (s.sample).lastConfirmationTime = s.lastConfirmationTime := by
  unfold State.sample; split <;> rfl

@[simp] theorem State.sample_nextIdleTimeoutAt (s : State) :
    (s.sample).nextIdleTimeoutAt = s.nextIdleTimeoutAt := by
  unfold State.sample; split <;> rfl

@[simp] theorem State.sample_isActive (s : State) :
    (s.sample).isActive = s.isActive := by
  unfold State.sample; split <;> rfl

@[simp] theorem State.sample_isRunning (s : State) :
    (s.sample).isRunning = s.isRunning := by
  unfold State.sample; split <;> rfl

@[simp] theorem State.sample_phase (s : State) :
    (s.sample).phase = s.phase := by
  unfold State.sample; split <;> rfl

@[simp] theorem State.sample_t2 (s : State) :
    (s.sample).t2 = s.t2 := by
  unfold State.sample; split <;> rfl

@[simp] theorem State.sample_t3 (s : State) :
    (s.sample).t3 = s.t3 := by
  unfold State.sample; split <;> rfl

@[simp] theorem State.sample_w (s : State) :
    (s.sample).w = s.w := by
  unfold State.sample; split <;> rfl

@[simp] theorem State.sample_tps (s : State) :
    (s.sample).tps = s.tps := by
  unfold State.sample; split <;> rfl

@[simp] theorem State.sample_iMinSize (s : State) :
    (s.sample).iMinSize = s.iMinSize := by
  unfold State.sample; split <;> rfl

@[simp] theorem State.sample_probeLimit (s : State) :
    (s.sample).probeLimit = s.probeLimit := by
  unfold State.sample; split <;> rfl

@[simp] theorem State.sample_badStartFatal (s : State) :
    (s.sample).badStartFatal = s.badStartFatal := by
  unfold State.sample; split <;> rfl

@[simp] theorem State.sample_fb (s : State) :
    (s.sample).fb = s.fb := by
  unfold State.sample; split <;> rfl

@[simp] theorem State.sample_rx (s : State) :
    (s.sample).rx = s.rx := by
  unfold State.sample; split <;> rfl

@[simp] theorem State.sample_rxEof (s : State) :
    (s.sample).rxEof = s.rxEof := by
  unfold State.sample; split <;> rfl

@[simp] theorem State.sample_tx (s : State) :
    (s.sample).tx = s.tx := by
  unfold State.sample; split <;> rfl

@[simp] theorem State.sample_oq (s : State) :
    (s.sample).oq = s.oq := by
  unfold State.sample; split <;> rfl

@[simp] theorem State.sample_disp (s : State) :
    (s.sample).disp = s.disp := by
  unfold State.sample; split <;> rfl

@[simp] theorem State.sample_answers (s : State) :
    (s.sample).answers = s.answers := by
  unfold State.sample; split <;> rfl

@[simp] theorem State.sample_draws (s : State) :
    (s.sample).draws = s.draws := by
  unfold State.sample; split <;> rfl

@[simp] theorem State.sample_log (s : State) :
    (s.sample).log = s.log := by
  unfold State.sample; split <;> rfl

@[simp] theorem State.sample_out (s : State) :
    (s.sample).out = s.out := by
  unfold State.sample; split <;> rfl

@[simp] theorem State.sample_sched (s : State) :
    (s.sample).sched = s.sched := by
  unfold State.sample; split <;> rfl

@[simp] theorem State.sample_delivered (s : State) :
    (s.sample).delivered = s.delivered := by
  unfold State.sample; split <;> rfl

@[simp] theorem State.sample_cls (s : State) :
    (s.sample).cls = s.cls := by
  unfold State.sample; split <;> rfl

theorem State.sample_eq (s : State) :
    s.sample = { s with now := s.timeRead, clock := s.clock.tail } := by
  obtain ⟨⟩ := s
  rename_i clock _ _ _
  cases clock <;> rfl

@[simp] theorem State.sample_now (s : State) : s.sample.now = s.timeRead := by
  rw [State.sample_eq]

@[simp] theorem State.sample_clock (s : State) : s.sample.clock = s.clock.tail := by
  rw [State.sample_eq]

/-- Time does not go back (R156). -/
theorem State.now_le_timeRead (s : State) : s.now ≤ s.timeRead := Nat.le_add_right _ _

/-! ### Entering the loop -/

@[simp] theorem State.enterLoop_sendCount (s : State) :
    (s.enterLoop).sendCount = s.sendCount := by
  unfold State.enterLoop; split <;> rfl

@[simp] theorem State.enterLoop_receiveCount (s : State) :
    (s.enterLoop).receiveCount = s.receiveCount := by
  unfold State.enterLoop; split <;> rfl

@[simp] theorem State.enterLoop_unconfirmedCount (s : State) :
    (s.enterLoop).unconfirmedCount = s.unconfirmedCount := by
  unfold State.enterLoop; split <;> rfl

@[simp] theorem State.enterLoop_outstandingTestProbes (s : State) :
    (s.enterLoop).outstandingTestProbes = s.outstandingTestProbes := by
  unfold State.enterLoop; split <;> rfl

@[simp] theorem State.enterLoop_lastConfirmationTime (s : State) :
    (s.enterLoop).lastConfirmationTime = s.lastConfirmationTime := by
  unfold State.enterLoop; split <;> rfl

@[simp] theorem State.enterLoop_nextIdleTimeoutAt (s : State) :
    (s.enterLoop).nextIdleTimeoutAt = s.nextIdleTimeoutAt := by
  unfold State.enterLoop; split <;> rfl

@[simp] theorem State.enterLoop_isActive (s : State) :
    (s.enterLoop).isActive = s.isActive := by
  unfold State.enterLoop; split <;> rfl

@[simp] theorem State.enterLoop_isRunning (s : State) :
    (s.enterLoop).isRunning = s.isRunning := by
  unfold State.enterLoop; split <;> rfl

@[simp] theorem State.enterLoop_t2 (s : State) :
    (s.enterLoop).t2 = s.t2 := by
  unfold State.enterLoop; split <;> rfl

@[simp] theorem State.enterLoop_t3 (s : State) :
    (s.enterLoop).t3 = s.t3 := by
  unfold State.enterLoop; split <;> rfl

@[simp] theorem State.enterLoop_w (s : State) :
    (s.enterLoop).w = s.w := by
  unfold State.enterLoop; split <;> rfl

@[simp] theorem State.enterLoop_tps (s : State) :
    (s.enterLoop).tps = s.tps := by
  unfold State.enterLoop; split <;> rfl

@[simp] theorem State.enterLoop_iMinSize (s : State) :
    (s.enterLoop).iMinSize = s.iMinSize := by
  unfold State.enterLoop; split <;> rfl

@[simp] theorem State.enterLoop_probeLimit (s : State) :
    (s.enterLoop).probeLimit = s.probeLimit := by
  unfold State.enterLoop; split <;> rfl

@[simp] theorem State.enterLoop_badStartFatal (s : State) :
    (s.enterLoop).badStartFatal = s.badStartFatal := by
  unfold State.enterLoop; split <;> rfl

@[simp] theorem State.enterLoop_fb (s : State) :
    (s.enterLoop).fb = s.fb := by
  unfold State.enterLoop; split <;> rfl

@[simp] theorem State.enterLoop_rx (s : State) :
    (s.enterLoop).rx = s.rx := by
  unfold State.enterLoop; split <;> rfl

@[simp] theorem State.enterLoop_rxEof (s : State) :
    (s.enterLoop).rxEof = s.rxEof := by
  unfold State.enterLoop; split <;> rfl

@[simp] theorem State.enterLoop_tx (s : State) :
    (s.enterLoop).tx = s.tx := by
  unfold State.enterLoop; split <;> rfl

@[simp] theorem State.enterLoop_oq (s : State) :
    (s.enterLoop).oq = s.oq := by
  unfold State.enterLoop; split <;> rfl

@[simp] theorem State.enterLoop_disp (s : State) :
    (s.enterLoop).disp = s.disp := by
  unfold State.enterLoop; split <;> rfl

@[simp] theorem State.enterLoop_answers (s : State) :
    (s.enterLoop).answers = s.answers := by
  unfold State.enterLoop; split <;> rfl

@[simp] theorem State.enterLoop_draws (s : State) :
    (s.enterLoop).draws = s.draws := by
  unfold State.enterLoop; split <;> rfl

@[simp] theorem State.enterLoop_log (s : State) :
    (s.enterLoop).log = s.log := by
  unfold State.enterLoop; split <;> rfl

@[simp] theorem State.enterLoop_out (s : State) :
    (s.enterLoop).out = s.out := by
  unfold State.enterLoop; split <;> rfl

@[simp] theorem State.enterLoop_now (s : State) :
    (s.enterLoop).now = s.now := by
  unfold State.enterLoop; split <;> rfl

@[simp] theorem State.enterLoop_clock (s : State) :
    (s.enterLoop).clock = s.clock := by
  unfold State.enterLoop; split <;> rfl

@[simp] theorem State.enterLoop_sched (s : State) :
    (s.enterLoop).sched = s.sched := by
  unfold State.enterLoop; split <;> rfl

@[simp] theorem State.enterLoop_delivered (s : State) :
    (s.enterLoop).delivered = s.delivered := by
  unfold State.enterLoop; split <;> rfl

@[simp] theorem State.enterLoop_cls (s : State) :
    (s.enterLoop).cls = s.cls := by
  unfold State.enterLoop; split <;> rfl

theorem State.enterLoop_phase (s : State) (h : s.InLoop) : s.enterLoop.phase = .running := by
  unfold State.enterLoop
  split
  · rfl
  · exact h.resolve_left ‹_›

/-! ### The I-frame send path -/

@[simp] theorem State.sendI_receiveCount (s : State) (a : Asdu) :
    (s.sendI a).receiveCount = s.receiveCount := by
  unfold State.sendI; split <;> rfl

@[simp] theorem State.sendI_unconfirmedCount (s : State) (a : Asdu) :
    (s.sendI a).unconfirmedCount = s.unconfirmedCount := by
  unfold State.sendI; split <;> rfl

@[simp] theorem State.sendI_outstandingTestProbes (s : State) (a : Asdu) :
    (s.sendI a).outstandingTestProbes = s.outstandingTestProbes := by
  unfold State.sendI; split <;> rfl

@[simp] theorem State.sendI_lastConfirmationTime (s : State) (a : Asdu) :
    (s.sendI a).lastConfirmationTime = s.lastConfirmationTime := by
  unfold State.sendI; split <;> rfl

@[simp] theorem State.sendI_nextIdleTimeoutAt (s : State) (a : Asdu) :
    (s.sendI a).nextIdleTimeoutAt = s.nextIdleTimeoutAt := by
  unfold State.sendI; split <;> rfl

@[simp] theorem State.sendI_isActive (s : State) (a : Asdu) :
    (s.sendI a).isActive = s.isActive := by
  unfold State.sendI; split <;> rfl

@[simp] theorem State.sendI_isRunning (s : State) (a : Asdu) :
    (s.sendI a).isRunning = s.isRunning := by
  unfold State.sendI; split <;> rfl

@[simp] theorem State.sendI_phase (s : State) (a : Asdu) :
    (s.sendI a).phase = s.phase := by
  unfold State.sendI; split <;> rfl

@[simp] theorem State.sendI_t2 (s : State) (a : Asdu) :
    (s.sendI a).t2 = s.t2 := by
  unfold State.sendI; split <;> rfl

@[simp] theorem State.sendI_t3 (s : State) (a : Asdu) :
    (s.sendI a).t3 = s.t3 := by
  unfold State.sendI; split <;> rfl

@[simp] theorem State.sendI_w (s : State) (a : Asdu) :
    (s.sendI a).w = s.w := by
  unfold State.sendI; split <;> rfl

@[simp] theorem State.sendI_tps (s : State) (a : Asdu) :
    (s.sendI a).tps = s.tps := by
  unfold State.sendI; split <;> rfl

@[simp] theorem State.sendI_iMinSize (s : State) (a : Asdu) :
    (s.sendI a).iMinSize = s.iMinSize := by
  unfold State.sendI; split <;> rfl

@[simp] theorem State.sendI_probeLimit (s : State) (a : Asdu) :
    (s.sendI a).probeLimit = s.probeLimit := by
  unfold State.sendI; split <;> rfl

@[simp] theorem State.sendI_badStartFatal (s : State) (a : Asdu) :
    (s.sendI a).badStartFatal = s.badStartFatal := by
  unfold State.sendI; split <;> rfl

@[simp] theorem State.sendI_fb (s : State) (a : Asdu) :
    (s.sendI a).fb = s.fb := by
  unfold State.sendI; split <;> rfl

@[simp] theorem State.sendI_rx (s : State) (a : Asdu) :
    (s.sendI a).rx = s.rx := by
  unfold State.sendI; split <;> rfl

@[simp] theorem State.sendI_rxEof (s : State) (a : Asdu) :
    (s.sendI a).rxEof = s.rxEof := by
  unfold State.sendI; split <;> rfl

@[simp] theorem State.sendI_oq (s : State) (a : Asdu) :
    (s.sendI a).oq = s.oq := by
  unfold State.sendI; split <;> rfl

@[simp] theorem State.sendI_disp (s : State) (a : Asdu) :
    (s.sendI a).disp = s.disp := by
  unfold State.sendI; split <;> rfl

@[simp] theorem State.sendI_answers (s : State) (a : Asdu) :
    (s.sendI a).answers = s.answers := by
  unfold State.sendI; split <;> rfl

@[simp] theorem State.sendI_draws (s : State) (a : Asdu) :
    (s.sendI a).draws = s.draws := by
  unfold State.sendI; split <;> rfl

@[simp] theorem State.sendI_out (s : State) (a : Asdu) :
    (s.sendI a).out = s.out := by
  unfold State.sendI; split <;> rfl

@[simp] theorem State.sendI_now (s : State) (a : Asdu) :
    (s.sendI a).now = s.now := by
  unfold State.sendI; split <;> rfl

@[simp] theorem State.sendI_clock (s : State) (a : Asdu) :
    (s.sendI a).clock = s.clock := by
  unfold State.sendI; split <;> rfl

@[simp] theorem State.sendI_sched (s : State) (a : Asdu) :
    (s.sendI a).sched = s.sched := by
  unfold State.sendI; split <;> rfl

@[simp] theorem State.sendI_delivered (s : State) (a : Asdu) :
    (s.sendI a).delivered = s.delivered := by
  unfold State.sendI; split <;> rfl

@[simp] theorem State.sendI_cls (s : State) (a : Asdu) :
    (s.sendI a).cls = s.cls := by
  unfold State.sendI; split <;> rfl

/-! ### The responses of a dispatch -/

@[simp] theorem State.sendAll_receiveCount (s : State) (as : List Asdu) :
    (s.sendAll as).receiveCount = s.receiveCount := by
  induction as generalizing s with
  | nil => rfl
  | cons a as ih => simp [State.sendAll, ih]

@[simp] theorem State.sendAll_unconfirmedCount (s : State) (as : List Asdu) :
    (s.sendAll as).unconfirmedCount = s.unconfirmedCount := by
  induction as generalizing s with
  | nil => rfl
  | cons a as ih => simp [State.sendAll, ih]

@[simp] theorem State.sendAll_outstandingTestProbes (s : State) (as : List Asdu) :
    (s.sendAll as).outstandingTestProbes = s.outstandingTestProbes := by
  induction as generalizing s with
  | nil => rfl
  | cons a as ih => simp [State.sendAll, ih]

@[simp] theorem State.sendAll_lastConfirmationTime (s : State) (as : List Asdu) :
    (s.sendAll as).lastConfirmationTime = s.lastConfirmationTime := by
  induction as generalizing s with
  | nil => rfl
  | cons a as ih => simp [State.sendAll, ih]

@[simp] theorem State.sendAll_nextIdleTimeoutAt (s : State) (as : List Asdu) :
    (s.sendAll as).nextIdleTimeoutAt = s.nextIdleTimeoutAt := by
  induction as generalizing s with
  | nil => rfl
  | cons a as ih => simp [State.sendAll, ih]

@[simp] theorem State.sendAll_isActive (s : State) (as : List Asdu) :
    (s.sendAll as).isActive = s.isActive := by
  induction as generalizing s with
  | nil => rfl
  | cons a as ih => simp [State.sendAll, ih]

@[simp] theorem State.sendAll_isRunning (s : State) (as : List Asdu) :
    (s.sendAll as).isRunning = s.isRunning := by
  induction as generalizing s with
  | nil => rfl
  | cons a as ih => simp [State.sendAll, ih]

@[simp] theorem State.sendAll_phase (s : State) (as : List Asdu) :
    (s.sendAll as).phase = s.phase := by
  induction as generalizing s with
  | nil => rfl
  | cons a as ih => simp [State.sendAll, ih]

@[simp] theorem State.sendAll_t2 (s : State) (as : List Asdu) :
    (s.sendAll as).t2 = s.t2 := by
  induction as generalizing s with
  | nil => rfl
  | cons a as ih => simp [State.sendAll, ih]

@[simp] theorem State.sendAll_t3 (s : State) (as : List Asdu) :
    (s.sendAll as).t3 = s.t3 := by
  induction as generalizing s with
  | nil => rfl
  | cons a as ih => simp [State.sendAll, ih]

@[simp] theorem State.sendAll_w (s : State) (as : List Asdu) :
    (s.sendAll as).w = s.w := by
  induction as generalizing s with
  | nil => rfl
  | cons a as ih => simp [State.sendAll, ih]

@[simp] theorem State.sendAll_tps (s : State) (as : List Asdu) :
    (s.sendAll as).tps = s.tps := by
  induction as generalizing s with
  | nil => rfl
  | cons a as ih => simp [State.sendAll, ih]

@[simp] theorem State.sendAll_iMinSize (s : State) (as : List Asdu) :
    (s.sendAll as).iMinSize = s.iMinSize := by
  induction as generalizing s with
  | nil => rfl
  | cons a as ih => simp [State.sendAll, ih]

@[simp] theorem State.sendAll_probeLimit (s : State) (as : List Asdu) :
    (s.sendAll as).probeLimit = s.probeLimit := by
  induction as generalizing s with
  | nil => rfl
  | cons a as ih => simp [State.sendAll, ih]

@[simp] theorem State.sendAll_badStartFatal (s : State) (as : List Asdu) :
    (s.sendAll as).badStartFatal = s.badStartFatal := by
  induction as generalizing s with
  | nil => rfl
  | cons a as ih => simp [State.sendAll, ih]

@[simp] theorem State.sendAll_fb (s : State) (as : List Asdu) :
    (s.sendAll as).fb = s.fb := by
  induction as generalizing s with
  | nil => rfl
  | cons a as ih => simp [State.sendAll, ih]

@[simp] theorem State.sendAll_rx (s : State) (as : List Asdu) :
    (s.sendAll as).rx = s.rx := by
  induction as generalizing s with
  | nil => rfl
  | cons a as ih => simp [State.sendAll, ih]

@[simp] theorem State.sendAll_rxEof (s : State) (as : List Asdu) :
    (s.sendAll as).rxEof = s.rxEof := by
  induction as generalizing s with
  | nil => rfl
  | cons a as ih => simp [State.sendAll, ih]

@[simp] theorem State.sendAll_oq (s : State) (as : List Asdu) :
    (s.sendAll as).oq = s.oq := by
  induction as generalizing s with
  | nil => rfl
  | cons a as ih => simp [State.sendAll, ih]

@[simp] theorem State.sendAll_disp (s : State) (as : List Asdu) :
    (s.sendAll as).disp = s.disp := by
  induction as generalizing s with
  | nil => rfl
  | cons a as ih => simp [State.sendAll, ih]

@[simp] theorem State.sendAll_answers (s : State) (as : List Asdu) :
    (s.sendAll as).answers = s.answers := by
  induction as generalizing s with
  | nil => rfl
  | cons a as ih => simp [State.sendAll, ih]

@[simp] theorem State.sendAll_draws (s : State) (as : List Asdu) :
    (s.sendAll as).draws = s.draws := by
  induction as generalizing s with
  | nil => rfl
  | cons a as ih => simp [State.sendAll, ih]

@[simp] theorem State.sendAll_out (s : State) (as : List Asdu) :
    (s.sendAll as).out = s.out := by
  induction as generalizing s with
  | nil => rfl
  | cons a as ih => simp [State.sendAll, ih]

@[simp] theorem State.sendAll_now (s : State) (as : List Asdu) :
    (s.sendAll as).now = s.now := by
  induction as generalizing s with
  | nil => rfl
  | cons a as ih => simp [State.sendAll, ih]

@[simp] theorem State.sendAll_clock (s : State) (as : List Asdu) :
    (s.sendAll as).clock = s.clock := by
  induction as generalizing s with
  | nil => rfl
  | cons a as ih => simp [State.sendAll, ih]

@[simp] theorem State.sendAll_sched (s : State) (as : List Asdu) :
    (s.sendAll as).sched = s.sched := by
  induction as generalizing s with
  | nil => rfl
  | cons a as ih => simp [State.sendAll, ih]

@[simp] theorem State.sendAll_delivered (s : State) (as : List Asdu) :
    (s.sendAll as).delivered = s.delivered := by
  induction as generalizing s with
  | nil => rfl
  | cons a as ih => simp [State.sendAll, ih]

@[simp] theorem State.sendAll_cls (s : State) (as : List Asdu) :
    (s.sendAll as).cls = s.cls := by
  induction as generalizing s with
  | nil => rfl
  | cons a as ih => simp [State.sendAll, ih]

/-! ### The S-frame -/

@[simp] theorem State.sendS_sendCount (s : State) :
    (s.sendS).sendCount = s.sendCount := by
  simp [State.sendS]

@[simp] theorem State.sendS_receiveCount (s : State) :
    (s.sendS).receiveCount = s.receiveCount := by
  simp [State.sendS]

@[simp] theorem State.sendS_outstandingTestProbes (s : State) :
    (s.sendS).outstandingTestProbes = s.outstandingTestProbes := by
  simp [State.sendS]

@[simp] theorem State.sendS_nextIdleTimeoutAt (s : State) :
    (s.sendS).nextIdleTimeoutAt = s.nextIdleTimeoutAt := by
  simp [State.sendS]

@[simp] theorem State.sendS_isActive (s : State) :
    (s.sendS).isActive = s.isActive := by
  simp [State.sendS]

@[simp] theorem State.sendS_isRunning (s : State) :
    (s.sendS).isRunning = s.isRunning := by
  simp [State.sendS]

@[simp] theorem State.sendS_phase (s : State) :
    (s.sendS).phase = s.phase := by
  simp [State.sendS]

@[simp] theorem State.sendS_t2 (s : State) :
    (s.sendS).t2 = s.t2 := by
  simp [State.sendS]

@[simp] theorem State.sendS_t3 (s : State) :
    (s.sendS).t3 = s.t3 := by
  simp [State.sendS]

@[simp] theorem State.sendS_w (s : State) :
    (s.sendS).w = s.w := by
  simp [State.sendS]

@[simp] theorem State.sendS_tps (s : State) :
    (s.sendS).tps = s.tps := by
  simp [State.sendS]

@[simp] theorem State.sendS_iMinSize (s : State) :
    (s.sendS).iMinSize = s.iMinSize := by
  simp [State.sendS]

@[simp] theorem State.sendS_probeLimit (s : State) :
    (s.sendS).probeLimit = s.probeLimit := by
  simp [State.sendS]

@[simp] theorem State.sendS_badStartFatal (s : State) :
    (s.sendS).badStartFatal = s.badStartFatal := by
  simp [State.sendS]

@[simp] theorem State.sendS_fb (s : State) :
    (s.sendS).fb = s.fb := by
  simp [State.sendS]

@[simp] theorem State.sendS_rx (s : State) :
    (s.sendS).rx = s.rx := by
  simp [State.sendS]

@[simp] theorem State.sendS_rxEof (s : State) :
    (s.sendS).rxEof = s.rxEof := by
  simp [State.sendS]

@[simp] theorem State.sendS_oq (s : State) :
    (s.sendS).oq = s.oq := by
  simp [State.sendS]

@[simp] theorem State.sendS_disp (s : State) :
    (s.sendS).disp = s.disp := by
  simp [State.sendS]

@[simp] theorem State.sendS_answers (s : State) :
    (s.sendS).answers = s.answers := by
  simp [State.sendS]

@[simp] theorem State.sendS_draws (s : State) :
    (s.sendS).draws = s.draws := by
  simp [State.sendS]

@[simp] theorem State.sendS_log (s : State) :
    (s.sendS).log = s.log := by
  simp [State.sendS]

@[simp] theorem State.sendS_out (s : State) :
    (s.sendS).out = s.out := by
  simp [State.sendS]

@[simp] theorem State.sendS_sched (s : State) :
    (s.sendS).sched = s.sched := by
  simp [State.sendS]

@[simp] theorem State.sendS_delivered (s : State) :
    (s.sendS).delivered = s.delivered := by
  simp [State.sendS]

@[simp] theorem State.sendS_cls (s : State) :
    (s.sendS).cls = s.cls := by
  simp [State.sendS]

@[simp] theorem State.sendS_tx (s : State) :
    s.sendS.tx = s.tx ++ [writeSFrame s.receiveCount] := by
  simp [State.sendS]

@[simp] theorem State.sendS_now (s : State) : s.sendS.now = s.timeRead := by
  simp [State.sendS, State.timeRead]

@[simp] theorem State.sendS_clock (s : State) : s.sendS.clock = s.clock.tail := by
  simp [State.sendS]

@[simp] theorem State.sendS_unconfirmedCount (s : State) : s.sendS.unconfirmedCount = 0 := by
  simp [State.sendS]

@[simp] theorem State.sendS_lastConfirmationTime (s : State) :
    s.sendS.lastConfirmationTime = s.timeRead := by
  simp [State.sendS, State.timeRead]

/-! ### Counting a received I-frame -/

@[simp] theorem State.countI_sendCount (s : State) :
    (s.countI).sendCount = s.sendCount := by
  unfold State.countI; dsimp only; split <;> simp

@[simp] theorem State.countI_outstandingTestProbes (s : State) :
    (s.countI).outstandingTestProbes = s.outstandingTestProbes := by
  unfold State.countI; dsimp only; split <;> simp

@[simp] theorem State.countI_nextIdleTimeoutAt (s : State) :
    (s.countI).nextIdleTimeoutAt = s.nextIdleTimeoutAt := by
  unfold State.countI; dsimp only; split <;> simp

@[simp] theorem State.countI_isActive (s : State) :
    (s.countI).isActive = s.isActive := by
  unfold State.countI; dsimp only; split <;> simp

@[simp] theorem State.countI_isRunning (s : State) :
    (s.countI).isRunning = s.isRunning := by
  unfold State.countI; dsimp only; split <;> simp

@[simp] theorem State.countI_phase (s : State) :
    (s.countI).phase = s.phase := by
  unfold State.countI; dsimp only; split <;> simp

@[simp] theorem State.countI_t2 (s : State) :
    (s.countI).t2 = s.t2 := by
  unfold State.countI; dsimp only; split <;> simp

@[simp] theorem State.countI_t3 (s : State) :
    (s.countI).t3 = s.t3 := by
  unfold State.countI; dsimp only; split <;> simp

@[simp] theorem State.countI_w (s : State) :
    (s.countI).w = s.w := by
  unfold State.countI; dsimp only; split <;> simp

@[simp] theorem State.countI_tps (s : State) :
    (s.countI).tps = s.tps := by
  unfold State.countI; dsimp only; split <;> simp

@[simp] theorem State.countI_iMinSize (s : State) :
    (s.countI).iMinSize = s.iMinSize := by
  unfold State.countI; dsimp only; split <;> simp

@[simp] theorem State.countI_probeLimit (s : State) :
    (s.countI).probeLimit = s.probeLimit := by
  unfold State.countI; dsimp only; split <;> simp

@[simp] theorem State.countI_badStartFatal (s : State) :
    (s.countI).badStartFatal = s.badStartFatal := by
  unfold State.countI; dsimp only; split <;> simp

@[simp] theorem State.countI_fb (s : State) :
    (s.countI).fb = s.fb := by
  unfold State.countI; dsimp only; split <;> simp

@[simp] theorem State.countI_rx (s : State) :
    (s.countI).rx = s.rx := by
  unfold State.countI; dsimp only; split <;> simp

@[simp] theorem State.countI_rxEof (s : State) :
    (s.countI).rxEof = s.rxEof := by
  unfold State.countI; dsimp only; split <;> simp

@[simp] theorem State.countI_tx (s : State) :
    (s.countI).tx = s.tx := by
  unfold State.countI; dsimp only; split <;> simp

@[simp] theorem State.countI_oq (s : State) :
    (s.countI).oq = s.oq := by
  unfold State.countI; dsimp only; split <;> simp

@[simp] theorem State.countI_disp (s : State) :
    (s.countI).disp = s.disp := by
  unfold State.countI; dsimp only; split <;> simp

@[simp] theorem State.countI_answers (s : State) :
    (s.countI).answers = s.answers := by
  unfold State.countI; dsimp only; split <;> simp

@[simp] theorem State.countI_draws (s : State) :
    (s.countI).draws = s.draws := by
  unfold State.countI; dsimp only; split <;> simp

@[simp] theorem State.countI_log (s : State) :
    (s.countI).log = s.log := by
  unfold State.countI; dsimp only; split <;> simp

@[simp] theorem State.countI_out (s : State) :
    (s.countI).out = s.out := by
  unfold State.countI; dsimp only; split <;> simp

@[simp] theorem State.countI_sched (s : State) :
    (s.countI).sched = s.sched := by
  unfold State.countI; dsimp only; split <;> simp

@[simp] theorem State.countI_delivered (s : State) :
    (s.countI).delivered = s.delivered := by
  unfold State.countI; dsimp only; split <;> simp

@[simp] theorem State.countI_cls (s : State) :
    (s.countI).cls = s.cls := by
  unfold State.countI; dsimp only; split <;> simp

@[simp] theorem State.countI_receiveCount (s : State) :
    s.countI.receiveCount = inc15 s.receiveCount := by
  unfold State.countI; dsimp only; split <;> simp

@[simp] theorem State.countI_unconfirmedCount (s : State) :
    s.countI.unconfirmedCount = s.unconfirmedCount + 1 := by
  unfold State.countI; dsimp only; split <;> simp

/-! ### Handing an ASDU over -/

@[simp] theorem State.handOver_sendCount (s : State) (a : Asdu) :
    (s.handOver a).sendCount = s.sendCount := by
  unfold State.handOver; split <;> rfl

@[simp] theorem State.handOver_receiveCount (s : State) (a : Asdu) :
    (s.handOver a).receiveCount = s.receiveCount := by
  unfold State.handOver; split <;> rfl

@[simp] theorem State.handOver_unconfirmedCount (s : State) (a : Asdu) :
    (s.handOver a).unconfirmedCount = s.unconfirmedCount := by
  unfold State.handOver; split <;> rfl

@[simp] theorem State.handOver_outstandingTestProbes (s : State) (a : Asdu) :
    (s.handOver a).outstandingTestProbes = s.outstandingTestProbes := by
  unfold State.handOver; split <;> rfl

@[simp] theorem State.handOver_lastConfirmationTime (s : State) (a : Asdu) :
    (s.handOver a).lastConfirmationTime = s.lastConfirmationTime := by
  unfold State.handOver; split <;> rfl

@[simp] theorem State.handOver_nextIdleTimeoutAt (s : State) (a : Asdu) :
    (s.handOver a).nextIdleTimeoutAt = s.nextIdleTimeoutAt := by
  unfold State.handOver; split <;> rfl

@[simp] theorem State.handOver_isActive (s : State) (a : Asdu) :
    (s.handOver a).isActive = s.isActive := by
  unfold State.handOver; split <;> rfl

@[simp] theorem State.handOver_isRunning (s : State) (a : Asdu) :
    (s.handOver a).isRunning = s.isRunning := by
  unfold State.handOver; split <;> rfl

@[simp] theorem State.handOver_phase (s : State) (a : Asdu) :
    (s.handOver a).phase = s.phase := by
  unfold State.handOver; split <;> rfl

@[simp] theorem State.handOver_t2 (s : State) (a : Asdu) :
    (s.handOver a).t2 = s.t2 := by
  unfold State.handOver; split <;> rfl

@[simp] theorem State.handOver_t3 (s : State) (a : Asdu) :
    (s.handOver a).t3 = s.t3 := by
  unfold State.handOver; split <;> rfl

@[simp] theorem State.handOver_w (s : State) (a : Asdu) :
    (s.handOver a).w = s.w := by
  unfold State.handOver; split <;> rfl

@[simp] theorem State.handOver_tps (s : State) (a : Asdu) :
    (s.handOver a).tps = s.tps := by
  unfold State.handOver; split <;> rfl

@[simp] theorem State.handOver_iMinSize (s : State) (a : Asdu) :
    (s.handOver a).iMinSize = s.iMinSize := by
  unfold State.handOver; split <;> rfl

@[simp] theorem State.handOver_probeLimit (s : State) (a : Asdu) :
    (s.handOver a).probeLimit = s.probeLimit := by
  unfold State.handOver; split <;> rfl

@[simp] theorem State.handOver_badStartFatal (s : State) (a : Asdu) :
    (s.handOver a).badStartFatal = s.badStartFatal := by
  unfold State.handOver; split <;> rfl

@[simp] theorem State.handOver_fb (s : State) (a : Asdu) :
    (s.handOver a).fb = s.fb := by
  unfold State.handOver; split <;> rfl

@[simp] theorem State.handOver_rx (s : State) (a : Asdu) :
    (s.handOver a).rx = s.rx := by
  unfold State.handOver; split <;> rfl

@[simp] theorem State.handOver_rxEof (s : State) (a : Asdu) :
    (s.handOver a).rxEof = s.rxEof := by
  unfold State.handOver; split <;> rfl

@[simp] theorem State.handOver_tx (s : State) (a : Asdu) :
    (s.handOver a).tx = s.tx := by
  unfold State.handOver; split <;> rfl

@[simp] theorem State.handOver_oq (s : State) (a : Asdu) :
    (s.handOver a).oq = s.oq := by
  unfold State.handOver; split <;> rfl

@[simp] theorem State.handOver_log (s : State) (a : Asdu) :
    (s.handOver a).log = s.log := by
  unfold State.handOver; split <;> rfl

@[simp] theorem State.handOver_out (s : State) (a : Asdu) :
    (s.handOver a).out = s.out := by
  unfold State.handOver; split <;> rfl

@[simp] theorem State.handOver_now (s : State) (a : Asdu) :
    (s.handOver a).now = s.now := by
  unfold State.handOver; split <;> rfl

@[simp] theorem State.handOver_clock (s : State) (a : Asdu) :
    (s.handOver a).clock = s.clock := by
  unfold State.handOver; split <;> rfl

@[simp] theorem State.handOver_sched (s : State) (a : Asdu) :
    (s.handOver a).sched = s.sched := by
  unfold State.handOver; split <;> rfl

@[simp] theorem State.handOver_delivered (s : State) (a : Asdu) :
    (s.handOver a).delivered = s.delivered := by
  unfold State.handOver; split <;> rfl

@[simp] theorem State.handOver_cls (s : State) (a : Asdu) :
    (s.handOver a).cls = s.cls := by
  unfold State.handOver; split <;> rfl

@[simp] theorem State.handOver_disp (s : State) (a : Asdu) :
    (s.handOver a).disp = s.disp ++ [a] := by
  unfold State.handOver; split <;> rfl

/-! ### A dispatched ASDU -/

@[simp] theorem State.dispatchAsdu_receiveCount (s : State) (a : Asdu) :
    (s.dispatchAsdu a).receiveCount = s.receiveCount := by
  unfold State.dispatchAsdu; split <;> simp

@[simp] theorem State.dispatchAsdu_unconfirmedCount (s : State) (a : Asdu) :
    (s.dispatchAsdu a).unconfirmedCount = s.unconfirmedCount := by
  unfold State.dispatchAsdu; split <;> simp

@[simp] theorem State.dispatchAsdu_outstandingTestProbes (s : State) (a : Asdu) :
    (s.dispatchAsdu a).outstandingTestProbes = s.outstandingTestProbes := by
  unfold State.dispatchAsdu; split <;> simp

@[simp] theorem State.dispatchAsdu_lastConfirmationTime (s : State) (a : Asdu) :
    (s.dispatchAsdu a).lastConfirmationTime = s.lastConfirmationTime := by
  unfold State.dispatchAsdu; split <;> simp

@[simp] theorem State.dispatchAsdu_nextIdleTimeoutAt (s : State) (a : Asdu) :
    (s.dispatchAsdu a).nextIdleTimeoutAt = s.nextIdleTimeoutAt := by
  unfold State.dispatchAsdu; split <;> simp

@[simp] theorem State.dispatchAsdu_isActive (s : State) (a : Asdu) :
    (s.dispatchAsdu a).isActive = s.isActive := by
  unfold State.dispatchAsdu; split <;> simp

@[simp] theorem State.dispatchAsdu_isRunning (s : State) (a : Asdu) :
    (s.dispatchAsdu a).isRunning = s.isRunning := by
  unfold State.dispatchAsdu; split <;> simp

@[simp] theorem State.dispatchAsdu_phase (s : State) (a : Asdu) :
    (s.dispatchAsdu a).phase = s.phase := by
  unfold State.dispatchAsdu; split <;> simp

@[simp] theorem State.dispatchAsdu_t2 (s : State) (a : Asdu) :
    (s.dispatchAsdu a).t2 = s.t2 := by
  unfold State.dispatchAsdu; split <;> simp

@[simp] theorem State.dispatchAsdu_t3 (s : State) (a : Asdu) :
    (s.dispatchAsdu a).t3 = s.t3 := by
  unfold State.dispatchAsdu; split <;> simp

@[simp] theorem State.dispatchAsdu_w (s : State) (a : Asdu) :
    (s.dispatchAsdu a).w = s.w := by
  unfold State.dispatchAsdu; split <;> simp

@[simp] theorem State.dispatchAsdu_tps (s : State) (a : Asdu) :
    (s.dispatchAsdu a).tps = s.tps := by
  unfold State.dispatchAsdu; split <;> simp

@[simp] theorem State.dispatchAsdu_iMinSize (s : State) (a : Asdu) :
    (s.dispatchAsdu a).iMinSize = s.iMinSize := by
  unfold State.dispatchAsdu; split <;> simp

@[simp] theorem State.dispatchAsdu_probeLimit (s : State) (a : Asdu) :
    (s.dispatchAsdu a).probeLimit = s.probeLimit := by
  unfold State.dispatchAsdu; split <;> simp

@[simp] theorem State.dispatchAsdu_badStartFatal (s : State) (a : Asdu) :
    (s.dispatchAsdu a).badStartFatal = s.badStartFatal := by
  unfold State.dispatchAsdu; split <;> simp

@[simp] theorem State.dispatchAsdu_fb (s : State) (a : Asdu) :
    (s.dispatchAsdu a).fb = s.fb := by
  unfold State.dispatchAsdu; split <;> simp

@[simp] theorem State.dispatchAsdu_rx (s : State) (a : Asdu) :
    (s.dispatchAsdu a).rx = s.rx := by
  unfold State.dispatchAsdu; split <;> simp

@[simp] theorem State.dispatchAsdu_rxEof (s : State) (a : Asdu) :
    (s.dispatchAsdu a).rxEof = s.rxEof := by
  unfold State.dispatchAsdu; split <;> simp

@[simp] theorem State.dispatchAsdu_oq (s : State) (a : Asdu) :
    (s.dispatchAsdu a).oq = s.oq := by
  unfold State.dispatchAsdu; split <;> simp

@[simp] theorem State.dispatchAsdu_out (s : State) (a : Asdu) :
    (s.dispatchAsdu a).out = s.out := by
  unfold State.dispatchAsdu; split <;> simp

@[simp] theorem State.dispatchAsdu_now (s : State) (a : Asdu) :
    (s.dispatchAsdu a).now = s.now := by
  unfold State.dispatchAsdu; split <;> simp

@[simp] theorem State.dispatchAsdu_clock (s : State) (a : Asdu) :
    (s.dispatchAsdu a).clock = s.clock := by
  unfold State.dispatchAsdu; split <;> simp

@[simp] theorem State.dispatchAsdu_sched (s : State) (a : Asdu) :
    (s.dispatchAsdu a).sched = s.sched := by
  unfold State.dispatchAsdu; split <;> simp

@[simp] theorem State.dispatchAsdu_delivered (s : State) (a : Asdu) :
    (s.dispatchAsdu a).delivered = s.delivered := by
  unfold State.dispatchAsdu; split <;> simp

@[simp] theorem State.dispatchAsdu_cls (s : State) (a : Asdu) :
    (s.dispatchAsdu a).cls = s.cls := by
  unfold State.dispatchAsdu; split <;> simp

/-! ### A dropped byte -/

@[simp] theorem State.dropByte_sendCount (s : State) (b : Byte) (rest : List Byte) :
    (s.dropByte b rest).sendCount = s.sendCount := by
  unfold State.dropByte; split <;> rfl

@[simp] theorem State.dropByte_receiveCount (s : State) (b : Byte) (rest : List Byte) :
    (s.dropByte b rest).receiveCount = s.receiveCount := by
  unfold State.dropByte; split <;> rfl

@[simp] theorem State.dropByte_unconfirmedCount (s : State) (b : Byte) (rest : List Byte) :
    (s.dropByte b rest).unconfirmedCount = s.unconfirmedCount := by
  unfold State.dropByte; split <;> rfl

@[simp] theorem State.dropByte_outstandingTestProbes (s : State) (b : Byte) (rest : List Byte) :
    (s.dropByte b rest).outstandingTestProbes = s.outstandingTestProbes := by
  unfold State.dropByte; split <;> rfl

@[simp] theorem State.dropByte_lastConfirmationTime (s : State) (b : Byte) (rest : List Byte) :
    (s.dropByte b rest).lastConfirmationTime = s.lastConfirmationTime := by
  unfold State.dropByte; split <;> rfl

@[simp] theorem State.dropByte_nextIdleTimeoutAt (s : State) (b : Byte) (rest : List Byte) :
    (s.dropByte b rest).nextIdleTimeoutAt = s.nextIdleTimeoutAt := by
  unfold State.dropByte; split <;> rfl

@[simp] theorem State.dropByte_isActive (s : State) (b : Byte) (rest : List Byte) :
    (s.dropByte b rest).isActive = s.isActive := by
  unfold State.dropByte; split <;> rfl

@[simp] theorem State.dropByte_t2 (s : State) (b : Byte) (rest : List Byte) :
    (s.dropByte b rest).t2 = s.t2 := by
  unfold State.dropByte; split <;> rfl

@[simp] theorem State.dropByte_t3 (s : State) (b : Byte) (rest : List Byte) :
    (s.dropByte b rest).t3 = s.t3 := by
  unfold State.dropByte; split <;> rfl

@[simp] theorem State.dropByte_w (s : State) (b : Byte) (rest : List Byte) :
    (s.dropByte b rest).w = s.w := by
  unfold State.dropByte; split <;> rfl

@[simp] theorem State.dropByte_tps (s : State) (b : Byte) (rest : List Byte) :
    (s.dropByte b rest).tps = s.tps := by
  unfold State.dropByte; split <;> rfl

@[simp] theorem State.dropByte_iMinSize (s : State) (b : Byte) (rest : List Byte) :
    (s.dropByte b rest).iMinSize = s.iMinSize := by
  unfold State.dropByte; split <;> rfl

@[simp] theorem State.dropByte_probeLimit (s : State) (b : Byte) (rest : List Byte) :
    (s.dropByte b rest).probeLimit = s.probeLimit := by
  unfold State.dropByte; split <;> rfl

@[simp] theorem State.dropByte_badStartFatal (s : State) (b : Byte) (rest : List Byte) :
    (s.dropByte b rest).badStartFatal = s.badStartFatal := by
  unfold State.dropByte; split <;> rfl

@[simp] theorem State.dropByte_fb (s : State) (b : Byte) (rest : List Byte) :
    (s.dropByte b rest).fb = s.fb := by
  unfold State.dropByte; split <;> rfl

@[simp] theorem State.dropByte_rxEof (s : State) (b : Byte) (rest : List Byte) :
    (s.dropByte b rest).rxEof = s.rxEof := by
  unfold State.dropByte; split <;> rfl

@[simp] theorem State.dropByte_tx (s : State) (b : Byte) (rest : List Byte) :
    (s.dropByte b rest).tx = s.tx := by
  unfold State.dropByte; split <;> rfl

@[simp] theorem State.dropByte_oq (s : State) (b : Byte) (rest : List Byte) :
    (s.dropByte b rest).oq = s.oq := by
  unfold State.dropByte; split <;> rfl

@[simp] theorem State.dropByte_disp (s : State) (b : Byte) (rest : List Byte) :
    (s.dropByte b rest).disp = s.disp := by
  unfold State.dropByte; split <;> rfl

@[simp] theorem State.dropByte_answers (s : State) (b : Byte) (rest : List Byte) :
    (s.dropByte b rest).answers = s.answers := by
  unfold State.dropByte; split <;> rfl

@[simp] theorem State.dropByte_draws (s : State) (b : Byte) (rest : List Byte) :
    (s.dropByte b rest).draws = s.draws := by
  unfold State.dropByte; split <;> rfl

@[simp] theorem State.dropByte_out (s : State) (b : Byte) (rest : List Byte) :
    (s.dropByte b rest).out = s.out := by
  unfold State.dropByte; split <;> rfl

@[simp] theorem State.dropByte_now (s : State) (b : Byte) (rest : List Byte) :
    (s.dropByte b rest).now = s.now := by
  unfold State.dropByte; split <;> rfl

@[simp] theorem State.dropByte_clock (s : State) (b : Byte) (rest : List Byte) :
    (s.dropByte b rest).clock = s.clock := by
  unfold State.dropByte; split <;> rfl

@[simp] theorem State.dropByte_sched (s : State) (b : Byte) (rest : List Byte) :
    (s.dropByte b rest).sched = s.sched := by
  unfold State.dropByte; split <;> rfl

@[simp] theorem State.dropByte_delivered (s : State) (b : Byte) (rest : List Byte) :
    (s.dropByte b rest).delivered = s.delivered := by
  unfold State.dropByte; split <;> rfl

@[simp] theorem State.dropByte_cls (s : State) (b : Byte) (rest : List Byte) :
    (s.dropByte b rest).cls = s.cls := by
  unfold State.dropByte; split <;> rfl

end Sys2Proof.Machine
end

