-- ==== Sys2Proof/Laws/Ops.lean ====
section
/-! SUPPORT. Lemmas about the shared operations: FB as a memory in canonical form, and what the
sequencing of operations can answer. -/

namespace Sys2Proof.Machine

/-! ### FB -/

/-- Reading after writing one byte. -/
theorem Memory.read_write (m : Memory) (x y : Nat) (v : Byte)
    (h : m.Pairwise (fun a b => a.1 < b.1)) :
    (m.write x v).read y = if y = x then some v else m.read y := by
  induction m with
  | nil => simp [Memory.write, Memory.read]
  | cons c m ih =>
    obtain ⟨a, b⟩ := c
    obtain ⟨hlt, hm⟩ := List.pairwise_cons.mp h
    simp only [Memory.write]
    split
    · simp [Memory.read]
    · split
      · subst a
        simp only [Memory.read]
        split <;> simp_all
      · simp only [Memory.read, ih hm]
        split
        · subst y
          split <;> simp_all
        · rfl

theorem Memory.mem_write {m : Memory} {x : Nat} {v : Byte} {c : Host.Cell}
    (h : c ∈ m.write x v) : c = (x, v) ∨ c ∈ m := by
  induction m with
  | nil => simpa [Memory.write] using h
  | cons d m ih =>
    obtain ⟨a, b⟩ := d
    simp only [Memory.write] at h
    repeat' split at h
    all_goals simp only [List.mem_cons] at h ⊢; tauto

/-- A write keeps the canonical form. -/
theorem Memory.wf_write {m : Memory} {x : Nat} (v : Byte) (hm : m.wf) (hx : x < fbSize) :
    (m.write x v).wf := by
  refine ⟨?_, fun c hc => (Memory.mem_write hc).elim (fun h => h ▸ hx) (hm.2 c)⟩
  have hp := hm.1
  clear hm
  induction m with
  | nil => simp [Memory.write]
  | cons d m ih =>
    obtain ⟨a, b⟩ := d
    obtain ⟨hlt, hm⟩ := List.pairwise_cons.mp hp
    simp only [Memory.write]
    split
    · rename_i hxa
      refine List.pairwise_cons.mpr ⟨fun c hc => ?_, hp⟩
      rcases List.mem_cons.mp hc with rfl | hc
      · exact hxa
      · exact Nat.lt_trans hxa (hlt c hc)
    · split
      · subst a
        exact List.pairwise_cons.mpr ⟨hlt, hm⟩
      · refine List.pairwise_cons.mpr ⟨fun c hc => ?_, ih hm⟩
        rcases Memory.mem_write hc with rfl | hc
        · show a < x
          omega
        · exact hlt c hc

/-- Writing a list of bytes keeps the canonical form. -/
theorem Memory.wf_writeList {m : Memory} (x : Nat) (vs : List Byte) (hm : m.wf)
    (h : x + vs.length ≤ fbSize) : (m.writeList x vs).wf := by
  induction vs generalizing m x with
  | nil => exact hm
  | cons v vs ih =>
    simp only [List.length_cons] at h
    exact ih (x + 1) (Memory.wf_write v hm (by omega)) (by omega)

/-- Reading after writing a list of bytes. -/
theorem Memory.read_writeList {m : Memory} (x y : Nat) (vs : List Byte) (hm : m.wf)
    (h : x + vs.length ≤ fbSize) :
    (m.writeList x vs).read y
      = if x ≤ y ∧ y < x + vs.length then vs[y - x]? else m.read y := by
  induction vs generalizing m x with
  | nil => simp [Memory.writeList]
  | cons v vs ih =>
    simp only [List.length_cons] at h
    rw [Memory.writeList, ih (x + 1) (Memory.wf_write v hm (by omega)) (by omega),
      Memory.read_write _ _ _ _ hm.1]
    by_cases hy : y = x
    · subst hy; simp
    · by_cases hr : x + 1 ≤ y ∧ y < x + 1 + vs.length
      · have h1 : y - x = (y - (x + 1)) + 1 := by omega
        have h2 : x ≤ y ∧ y < x + (vs.length + 1) := by omega
        simp [hr, h1, h2]
      · have h2 : ¬ (x ≤ y ∧ y < x + (vs.length + 1)) := by omega
        rw [if_neg hr, if_neg hy, if_neg (by simpa using h2)]

/-- Reading a run of bytes, byte by byte. -/
theorem Memory.readList_eq_some {m : Memory} {x : Nat} {vs : List Byte}
    (h : ∀ k, k < vs.length → m.read (x + k) = vs[k]?) : m.readList x vs.length = some vs := by
  induction vs generalizing x with
  | nil => rfl
  | cons v vs ih =>
    have h0 : m.read x = some v := by simpa using h 0 (by simp)
    have h1 : m.readList (x + 1) vs.length = some vs := ih fun k hk => by
      have := h (k + 1) (by simpa using hk)
      rw [show x + (k + 1) = x + 1 + k by omega] at this
      simpa using this
    simp [Memory.readList, h0, h1]

/-- The bytes of a delivered frame stand in FB, and nothing else does (R103). -/
theorem Memory.read_frame (f : Frame) (k : Nat) (h : f.length ≤ 257) :
    (Memory.writeList [] 0 f).read k = f[k]? := by
  rw [Memory.read_writeList 0 k f ⟨by simp, by simp⟩ (by simpa [fbSize] using h)]
  by_cases hk : k < f.length
  · simp [hk]
  · simp [Memory.read, hk]

theorem Memory.wf_frame (f : Frame) (h : f.length ≤ 257) : (Memory.writeList [] 0 f).wf :=
  Memory.wf_writeList 0 f ⟨by simp, by simp⟩ (by simpa [fbSize] using h)

/-- The frame read out of FB after a delivery is the one delivered. -/
theorem State.fetchFrame_delivered {s : State} {c1 : Byte} {tail : List Byte}
    (hs : s.fb = Memory.writeList [] 0 (frameOf (c1 :: tail))) (h : tail.length ≤ 254) :
    s.fetchFrame (tail.length + 3) = some ⟨c1, tail⟩ := by
  have : s.fb.readList 2 (c1 :: tail).length = some (c1 :: tail) :=
    Memory.readList_eq_some fun k hk => by
      rw [hs, Memory.read_frame _ _ (by simp [frameOf]; omega), Nat.add_comm 2 k]
      simp [frameOf]
  simp only [List.length_cons] at this
  simp [State.fetchFrame, this]

/-- The two ways a byte that is no start byte is met (R102, D39). -/
theorem State.dropByte_cases (s : State) (b : Byte) (rest : List Byte) :
    (s.badStartFatal = true ∧ s.dropByte b rest = s.trapEntry (.framingError s.rx.length)) ∨
      (s.badStartFatal = false ∧
        s.dropByte b rest = { s with log := s.log ++ [.missingStartByte b], rx := rest }) := by
  cases h : s.badStartFatal <;> simp [State.dropByte, h, State.logEvent]

/-! ### Sequencing -/

/-- In the loop a worker operation is executed. -/
theorem whenWorker_inLoop {s : State} (k : State → Result) (h : s.InLoop) :
    whenWorker s k = k s := if_pos h

/-- Outside the loop it is not. -/
theorem whenWorker_outside {s : State} (k : State → Result)
    (h : s.phase = .closing ∨ s.phase = .closed) :
    whenWorker s k = .fault .workerNotEnabled :=
  if_neg (by rcases h with h | h <;> simp [State.enabled, h])

/-- A worker operation that answers a next state was executed in the loop. -/
theorem whenWorker_next {s t : State} {k : State → Result} (h : whenWorker s k = .next t) :
    s.InLoop ∧ k s = .next t := by
  unfold whenWorker at h
  split at h
  · exact ⟨‹_›, h⟩
  · cases h

/-- The two ways a sequence of operations answers a next state: the first raised, or both ran. -/
theorem andThen_next {o : Result} {k : State → Result} {t : State} (h : andThen o k = .next t) :
    (o = .next t ∧ t.phase = .closing) ∨ ∃ s, o = .next s ∧ s.phase ≠ .closing ∧ k s = .next t := by
  cases o with
  | next s =>
    simp only [andThen] at h
    split at h
    · cases h; exact .inl ⟨rfl, ‹_›⟩
    · exact .inr ⟨s, rfl, ‹_›, h⟩
  | fault r => cases h
  | refused r => cases h

theorem andThen_of_not_closing {s : State} (k : State → Result) (h : s.phase ≠ .closing) :
    andThen (.next s) k = k s := by
  simp [andThen, h]

theorem andThen_of_closing {s : State} (k : State → Result) (h : s.phase = .closing) :
    andThen (.next s) k = .next s := by
  simp [andThen, h]

theorem mapNext_next {g : State → State} {o : Result} {t : State} (h : mapNext g o = .next t) :
    ∃ s, o = .next s ∧ t = g s := by
  cases o with
  | next s => exact ⟨s, rfl, by simpa [mapNext] using h.symm⟩
  | fault r => cases h
  | refused r => cases h

end Sys2Proof.Machine
end

