-- ==== Sys2Proof/Laws/Sequence.lean ====
section
/-! SUPPORT. What the send path, the responses of a dispatch and the S-frame do to the counters and to
TX, said once. -/

namespace Sys2Proof.Machine

theorem inc15_eq (x : Seq) : inc15 x = x + 1 := by
  apply BitVec.eq_of_toNat_eq
  simp [inc15]

theorem inc15_toNat (x : Seq) : (inc15 x).toNat = (x.toNat + 1) % 32768 := by
  simp [inc15]

theorem toNat_add_one (x : Seq) : (x + 1).toNat = (x.toNat + 1) % 32768 := by
  simp

/-- An ASDU that fits is stamped, sent and counted (R130). -/
theorem State.sendI_fits (s : State) {a : Asdu} (h : a.length ≤ 251) :
    s.sendI a = { s with
      tx := s.tx ++ [writeIFrame a s.sendCount s.receiveCount]
      sendCount := s.sendCount + 1 } := by
  have : ¬ a.length > Config.maxAsdu := by simp [Config.maxAsdu]; omega
  simp [State.sendI, this, State.txAppend, inc15_eq]

/-- An over-long ASDU is only logged (R130, D23). -/
theorem State.sendI_overlong (s : State) {a : Asdu} (h : 251 < a.length) :
    s.sendI a = { s with log := s.log ++ [.asduTooLong] } := by
  have : a.length > Config.maxAsdu := by simpa [Config.maxAsdu] using h
  simp [State.sendI, this, State.logEvent]

/-- The responses of a dispatch, sent in list order (R191). -/
theorem State.sendAll_eq (s : State) (as : List Asdu) :
    s.sendAll as = { s with
      tx := s.tx ++ responseFrames s.sendCount s.receiveCount as
      sendCount := (s.sendAll as).sendCount
      log := s.log ++ responseLog as } := by
  induction as generalizing s with
  | nil => simp [State.sendAll, responseFrames, responseLog]
  | cons a as ih =>
    rw [State.sendAll, ih]
    by_cases h : a.length ≤ 251
    · simp [State.sendI_fits s h, responseFrames, responseLog, h, writeIFrame, startByte]
    · simp [State.sendI_overlong s (by omega : 251 < a.length), responseFrames, responseLog, h]

@[simp] theorem State.sendAll_tx (s : State) (as : List Asdu) :
    (s.sendAll as).tx = s.tx ++ responseFrames s.sendCount s.receiveCount as := by
  rw [State.sendAll_eq]

@[simp] theorem State.sendAll_log (s : State) (as : List Asdu) :
    (s.sendAll as).log = s.log ++ responseLog as := by
  rw [State.sendAll_eq]

/-- `sendCount` advances by the number of responses sent, modulo 32768. -/
theorem State.sendAll_sendCount (s : State) (as : List Asdu) :
    (s.sendAll as).sendCount.toNat
      = (s.sendCount.toNat + (responseFrames s.sendCount s.receiveCount as).length) % 32768 := by
  induction as generalizing s with
  | nil => simp [State.sendAll, responseFrames, Nat.mod_eq_of_lt s.sendCount.isLt]
  | cons a as ih =>
    rw [State.sendAll, ih]
    by_cases h : a.length ≤ 251
    · simp only [State.sendI_fits s h, responseFrames, h, if_true, toNat_add_one,
        List.length_cons]
      omega
    · simp [State.sendI_overlong s (by omega : 251 < a.length), responseFrames, h]

/-- Every response frame is an I-frame of this engine. -/
theorem isIFrame_responseFrames (ns nr : Seq) (as : List Asdu) :
    ∀ f ∈ responseFrames ns nr as, IsIFrame f := by
  induction as generalizing ns with
  | nil => simp [responseFrames]
  | cons a as ih =>
    intro f hf
    unfold responseFrames at hf
    split at hf
    · rcases List.mem_cons.mp hf with rfl | hf
      · exact ⟨a, ns, nr, ‹_›, rfl⟩
      · exact ih _ f hf
    · exact ih _ f hf

/-- No response event is a received I-frame. -/
@[simp] theorem countRxI_responseLog (as : List Asdu) : countRxI (responseLog as) = 0 := by
  induction as with
  | nil => rfl
  | cons a as ih => unfold responseLog; split <;> simp [countRxI, ih]

/-- The S-frame, its counter and its time (R133). -/
theorem State.sendS_eq (s : State) :
    s.sendS = { s with
      tx := s.tx ++ [writeSFrame s.receiveCount]
      unconfirmedCount := 0
      lastConfirmationTime := s.timeRead
      now := s.timeRead
      clock := s.clock.tail } := by
  simp [State.sendS, State.sample_eq, State.txAppend, State.timeRead]

/-- The counting of a received I-frame; the time is read on the 0-to-1 transition only (R131). -/
theorem State.countI_eq (s : State) : s.countI = { s with
    receiveCount := s.receiveCount + 1
    unconfirmedCount := s.unconfirmedCount + 1
    lastConfirmationTime := if s.unconfirmedCount = 0 then s.timeRead else s.lastConfirmationTime
    now := if s.unconfirmedCount = 0 then s.timeRead else s.now
    clock := if s.unconfirmedCount = 0 then s.clock.tail else s.clock } := by
  unfold State.countI
  by_cases h : s.unconfirmedCount = 0
  · simp [h, State.sample_eq, inc15_eq]; rfl
  · simp [h, inc15_eq]

/-- One `Dispatch`: the ASDU on the port, one answer used up (R191). -/
theorem State.handOver_eq (s : State) (a : Asdu) : s.handOver a = { s with
    disp := s.disp ++ [a]
    answers := s.answers.tail
    draws := if s.answers = [] then s.draws + 1 else s.draws } := by
  obtain ⟨⟩ := s
  rename_i answers _ _ _ _ _ _ _ _
  cases answers <;> rfl

/-- The dispatch of a received ASDU and its responses (R190, R191). -/
theorem State.dispatchAsdu_active (s : State) (a : Asdu) (h : s.isActive = true) :
    s.dispatchAsdu a = { s with
      disp := s.disp ++ [a]
      answers := s.answers.tail
      draws := if s.answers = [] then s.draws + 1 else s.draws
      tx := s.tx ++ responseFrames s.sendCount s.receiveCount s.nextAnswer
      sendCount := (s.dispatchAsdu a).sendCount
      log := s.log ++ responseLog s.nextAnswer } := by
  have hd : s.dispatchAsdu a = (s.handOver a).sendAll s.nextAnswer := by
    simp [State.dispatchAsdu, h]
  rw [hd, State.handOver_eq]
  exact State.sendAll_eq _ _

/-- Nothing is dispatched while inactive (R190). -/
theorem State.dispatchAsdu_inactive (s : State) (a : Asdu) (h : s.isActive = false) :
    s.dispatchAsdu a = s := by
  simp [State.dispatchAsdu, h]

theorem State.dispatchAsdu_sendCount (s : State) (a : Asdu) (h : s.isActive = true) :
    (s.dispatchAsdu a).sendCount.toNat = (s.sendCount.toNat +
      (responseFrames s.sendCount s.receiveCount s.nextAnswer).length) % 32768 := by
  simp only [State.dispatchAsdu, h, if_true]
  rw [State.sendAll_sendCount, State.handOver_eq]

/-! ### Counting frames -/

@[simp] theorem countIFrames_append (xs ys : List Frame) :
    countIFrames (xs ++ ys) = countIFrames xs + countIFrames ys := by
  induction xs with
  | nil => simp [countIFrames]
  | cons x xs ih => simp [countIFrames, ih, Nat.add_assoc]

@[simp] theorem countRxI_append (xs ys : List LogEvent) :
    countRxI (xs ++ ys) = countRxI xs + countRxI ys := by
  induction xs with
  | nil => simp [countRxI]
  | cons x xs ih => cases x <;> simp [countRxI, ih, Nat.add_assoc]

theorem isIFrame_of_IsIFrame {f : Frame} (h : IsIFrame f) : isIFrame f = true := by
  obtain ⟨asdu, ns, nr, -, rfl⟩ := h
  simp [isIFrame]

theorem isIFrame_of_IsSFrame {f : Frame} (h : IsSFrame f) : isIFrame f = false := by
  obtain ⟨nr, rfl⟩ := h
  rfl

theorem isIFrame_of_IsConfirmation {f : Frame} (h : IsConfirmation f) : isIFrame f = false := by
  rcases h with rfl | rfl | rfl <;> rfl

theorem isIFrame_of_IsProbe {f : Frame} (h : IsProbe f) : isIFrame f = false := by
  rw [h]; rfl

/-- A list of I-frames counts whole. -/
theorem countIFrames_of_all {fs : List Frame} (h : ∀ f ∈ fs, IsIFrame f) :
    countIFrames fs = fs.length := by
  induction fs with
  | nil => rfl
  | cons f fs ih =>
    simp only [List.forall_mem_cons] at h
    simp [countIFrames, isIFrame_of_IsIFrame h.1, ih h.2, Nat.add_comm]

/-- The writers' frames are of the forms R113 lists. -/
theorem isIFrame_writeIFrame {a : Asdu} (ns nr : Seq) (h : a.length ≤ 251) :
    IsIFrame (writeIFrame a ns nr) := ⟨a, ns, nr, h, rfl⟩

theorem isSFrame_writeSFrame (nr : Seq) : IsSFrame (writeSFrame nr) := ⟨nr, rfl⟩

end Sys2Proof.Machine
end

