-- ==== Sys2Proof/Laws/Driver.lean ====
section
/-! SUPPORT. What each operation can answer, said once (an operation that answers a next state), and
the one induction over the operations of an iteration and of a step. -/

namespace Sys2Proof.Machine

/-! ### Operations -/

/-- `READ_FRAME` in the loop (R100). -/
theorem execReadFrame_eq {s : State} (hl : s.InLoop) :
    execReadFrame s = match headOf s.rx with
      | .empty =>
        if s.rxEof then .next (s.closeWindow.trapEntry .socketClosed) else .next s.closeWindow
      | .badStart b rest => .next (s.closeWindow.dropByte b rest)
      | .incomplete k =>
        if s.rxEof then .next (s.closeWindow.trapEntry (.framingError k)) else .next s.closeWindow
      | .whole body rest => .next (s.closeWindow.deliver body rest) :=
  whenWorker_inLoop _ hl

/-- `RESYNC` in the loop (R102). -/
theorem execResync_eq {s : State} (hl : s.InLoop) :
    execResync s = match s.rx with
      | [] => .fault .rxUnderflow
      | b :: rest =>
        if b = startByte then .fault .notMisaligned else .next (s.closeWindow.dropByte b rest) :=
  whenWorker_inLoop _ hl

/-- `CLASSIFY` in the loop (R105). -/
theorem execClassify_eq {n : Nat} {s : State} (hl : s.InLoop) :
    execClassify n s =
      if n < 3 then .next (s.trapEntry (.frameTooShort (n - 2)))
      else match s.fb.read 2 with
        | none => .fault (.fbUnspecified 2)
        | some c1 => .next (s.setClass (classOf c1)) :=
  whenWorker_inLoop _ hl

/-- `RX_I` in the loop (R131). -/
theorem execRxI_eq {f : RxFrame} {s : State} (hl : s.InLoop) :
    execRxI f s =
      if f.tail.length + 3 < s.iMinSize then
        .next (s.trapEntry (.frameTooShort (f.tail.length + 1)))
      else match f.tail with
        | c2 :: c3 :: c4 :: asdu =>
          .next (((s.logEvent (.rxI (decSeq f.c1 c2) (decSeq c3 c4))).countI).dispatchAsdu asdu)
        | tail => .fault (.fbUnspecified (tail.length + 3)) := by
  obtain ⟨c1, tail⟩ := f
  rw [execRxI, whenWorker_inLoop _ hl]
  rcases tail with _ | ⟨c2, _ | ⟨c3, _ | ⟨c4, asdu⟩⟩⟩ <;> simp [frameSize, frameLen, frameFields]
  rfl

/-- `RX_I` on a frame below `I_MIN_SIZE` (R131). -/
theorem execRxI_short {f : RxFrame} {s : State} (hl : s.InLoop)
    (h : f.tail.length + 3 < s.iMinSize) :
    execRxI f s = .next (s.trapEntry (.frameTooShort (f.tail.length + 1))) := by
  rw [execRxI_eq hl, if_pos h]

/-- `RX_I` on a frame of at least `I_MIN_SIZE` bytes with its four control octets (R131). -/
theorem execRxI_whole {f : RxFrame} {s : State} (hl : s.InLoop) {c2 c3 c4 : Byte} {asdu : Asdu}
    (ht : f.tail = c2 :: c3 :: c4 :: asdu) (h : s.iMinSize ≤ f.tail.length + 3) :
    execRxI f s =
      .next (((s.logEvent (.rxI (decSeq f.c1 c2) (decSeq c3 c4))).countI).dispatchAsdu asdu) := by
  rw [execRxI_eq hl, if_neg (by omega), ht]

/-- `T3_CHECK` in the loop (R152). -/
theorem execT3Check_eq {s : State} (hl : s.InLoop) :
    execT3Check s =
      if s.nextIdleTimeoutAt < s.timeRead then
        if s.probeLimit < s.outstandingTestProbes then
          .next (s.sample.trapEntry (.livenessFailure s.outstandingTestProbes))
        else .next { s with
          now := s.timeRead
          clock := s.clock.tail
          tx := s.tx ++ [writeUFrame 0x43]
          outstandingTestProbes := s.outstandingTestProbes + 1
          nextIdleTimeoutAt := s.timeRead + s.t3 * s.tps }
      else .next s.sample := by
  rw [execT3Check, whenWorker_inLoop _ hl]
  simp [State.sample_eq, State.setIdleDeadline, State.txAppend, State.t3Ticks,
    State.timeRead]

/-- `T2_CHECK` in the loop (R153). -/
theorem execT2Check_eq {s : State} (hl : s.InLoop) :
    execT2Check s =
      if 0 < s.unconfirmedCount then
        if s.timeRead < s.lastConfirmationTime then .fault .timeWentBack
        else .next (if s.t2 * s.tps ≤ s.timeRead - s.lastConfirmationTime then s.sample.sendS
          else s.sample)
      else .next s.sample := by
  rw [execT2Check, whenWorker_inLoop _ hl]
  simp [State.t2Ticks]

/-- `QUEUE_SEND` in the loop (R204). -/
theorem execQueueSend_eq {s : State} (hl : s.InLoop) :
    execQueueSend s =
      if s.isActive then
        match s.oq with
        | [] => .next s
        | a :: q => .next (({ s with oq := q } : State).sendI a)
      else .next s :=
  whenWorker_inLoop _ hl

/-- `FORCE_ACK` in the loop (R134). -/
theorem execForceAck_eq {s : State} (hl : s.InLoop) :
    execForceAck s = .next (if s.w < s.unconfirmedCount then s.sendS else s) :=
  whenWorker_inLoop _ hl

/-- `T3_RESET` in the loop (R151). -/
theorem execT3Reset_eq {s : State} (hl : s.InLoop) :
    execT3Reset s = .next s.sample.setIdleDeadline :=
  whenWorker_inLoop _ hl

/-- What `READ_FRAME` can answer (R100). -/
theorem execReadFrame_next {s t : State} (h : execReadFrame s = .next t) :
    s.InLoop ∧
      ((s.rx = [] ∧ s.rxEof = true ∧ t = s.closeWindow.trapEntry .socketClosed) ∨
        (headOf s.rx = .incomplete s.rx.length ∧ s.rxEof = true ∧
          t = s.closeWindow.trapEntry (.framingError s.rx.length)) ∨
        ((s.rx = [] ∨ headOf s.rx = .incomplete s.rx.length) ∧ s.rxEof = false ∧
          t = s.closeWindow) ∨
        (∃ b rest, s.rx = b :: rest ∧ b ≠ startByte ∧ t = s.closeWindow.dropByte b rest) ∨
        ∃ body rest, s.rx = frameOf body ++ rest ∧ body.length ≤ 255 ∧
          t = s.closeWindow.deliver body rest) := by
  have hl := (whenWorker_next h).1
  rw [execReadFrame_eq hl] at h
  refine ⟨hl, ?_⟩
  cases he : s.rxEof <;> simp only [he, if_true, if_false, Bool.false_eq_true] at h
  all_goals split at h <;> cases h <;> rename_i hh
  · exact .inr (.inr (.inl ⟨.inl (headOf_empty hh), rfl, rfl⟩))
  · exact .inr (.inr (.inr (.inl ⟨_, _, (headOf_badStart hh).1, (headOf_badStart hh).2, rfl⟩)))
  · exact .inr (.inr (.inl ⟨.inr ((headOf_incomplete hh).1 ▸ hh), rfl, rfl⟩))
  · exact .inr (.inr (.inr (.inr ⟨_, _, (headOf_whole hh).1, (headOf_whole hh).2, rfl⟩)))
  · exact .inl ⟨headOf_empty hh, rfl, rfl⟩
  · exact .inr (.inr (.inr (.inl ⟨_, _, (headOf_badStart hh).1, (headOf_badStart hh).2, rfl⟩)))
  · have hk := (headOf_incomplete hh).1
    subst hk
    exact .inr (.inl ⟨hh, rfl, rfl⟩)
  · exact .inr (.inr (.inr (.inr ⟨_, _, (headOf_whole hh).1, (headOf_whole hh).2, rfl⟩)))

/-- What `RESYNC` can answer (R102). -/
theorem execResync_next {s t : State} (h : execResync s = .next t) :
    s.InLoop ∧ ∃ b rest, s.rx = b :: rest ∧ b ≠ startByte ∧ t = s.closeWindow.dropByte b rest := by
  have hl := (whenWorker_next h).1
  rw [execResync_eq hl] at h
  refine ⟨hl, ?_⟩
  split at h
  · cases h
  · split at h <;> cases h
    exact ⟨_, _, ‹_›, ‹_›, rfl⟩

/-- What `CLASSIFY` can answer (R105). -/
theorem execClassify_next {n : Nat} {s t : State} (h : execClassify n s = .next t) :
    s.InLoop ∧
      ((n < 3 ∧ t = s.trapEntry (.frameTooShort (n - 2))) ∨
        (3 ≤ n ∧ ∃ c1, s.fb.read 2 = some c1 ∧ t = s.setClass (classOf c1))) := by
  have hl := (whenWorker_next h).1
  rw [execClassify_eq hl] at h
  refine ⟨hl, ?_⟩
  split at h
  · cases h; exact .inl ⟨‹_›, rfl⟩
  · split at h <;> cases h
    exact .inr ⟨by omega, _, ‹_›, rfl⟩

/-- What `RX_I` can answer (R131). -/
theorem execRxI_next {f : RxFrame} {s t : State} (h : execRxI f s = .next t) :
    s.InLoop ∧
      ((f.tail.length + 3 < s.iMinSize ∧ t = s.trapEntry (.frameTooShort (f.tail.length + 1))) ∨
        (s.iMinSize ≤ f.tail.length + 3 ∧ ∃ c2 c3 c4 asdu, f.tail = c2 :: c3 :: c4 :: asdu ∧
          t = ((s.logEvent (.rxI (decSeq f.c1 c2) (decSeq c3 c4))).countI).dispatchAsdu asdu)) := by
  have hl := (whenWorker_next h).1
  rw [execRxI_eq hl] at h
  refine ⟨hl, ?_⟩
  split at h
  · cases h; exact .inl ⟨‹_›, rfl⟩
  · split at h <;> cases h
    exact .inr ⟨by omega, _, _, _, _, ‹_›, rfl⟩

/-- What `T3_CHECK` can answer (R152). -/
theorem execT3Check_next {s t : State} (h : execT3Check s = .next t) :
    s.InLoop ∧
      ((s.nextIdleTimeoutAt < s.timeRead ∧ s.probeLimit < s.outstandingTestProbes ∧
          t = s.sample.trapEntry (.livenessFailure s.outstandingTestProbes)) ∨
        (s.nextIdleTimeoutAt < s.timeRead ∧ s.outstandingTestProbes ≤ s.probeLimit ∧
          t = { s with
            now := s.timeRead
            clock := s.clock.tail
            tx := s.tx ++ [writeUFrame 0x43]
            outstandingTestProbes := s.outstandingTestProbes + 1
            nextIdleTimeoutAt := s.timeRead + s.t3 * s.tps }) ∨
        (s.timeRead ≤ s.nextIdleTimeoutAt ∧ t = s.sample)) := by
  have hl := (whenWorker_next h).1
  rw [execT3Check_eq hl] at h
  refine ⟨hl, ?_⟩
  split at h
  · split at h <;> cases h
    · exact .inl ⟨‹_›, ‹_›, rfl⟩
    · exact .inr (.inl ⟨‹_›, by omega, rfl⟩)
  · cases h; exact .inr (.inr ⟨by omega, rfl⟩)

/-- What `T2_CHECK` can answer (R153). -/
theorem execT2Check_next {s t : State} (h : execT2Check s = .next t) :
    s.InLoop ∧
      ((0 < s.unconfirmedCount ∧ s.lastConfirmationTime ≤ s.timeRead ∧
          s.t2 * s.tps ≤ s.timeRead - s.lastConfirmationTime ∧ t = s.sample.sendS) ∨
        ((s.unconfirmedCount = 0 ∨ (s.lastConfirmationTime ≤ s.timeRead ∧
          s.timeRead - s.lastConfirmationTime < s.t2 * s.tps)) ∧ t = s.sample)) := by
  have hl := (whenWorker_next h).1
  rw [execT2Check_eq hl] at h
  refine ⟨hl, ?_⟩
  split at h
  · split at h
    · cases h
    · split at h <;> cases h
      · exact .inl ⟨‹_›, by omega, ‹_›, rfl⟩
      · exact .inr ⟨.inr ⟨by omega, by omega⟩, rfl⟩
  · cases h; exact .inr ⟨.inl (by omega), rfl⟩

/-- What `QUEUE_SEND` can answer (R204). -/
theorem execQueueSend_next {s t : State} (h : execQueueSend s = .next t) :
    s.InLoop ∧
      ((s.isActive = false ∨ s.oq = []) ∧ t = s ∨
        s.isActive = true ∧ ∃ a q, s.oq = a :: q ∧ t = ({ s with oq := q } : State).sendI a) := by
  have hl := (whenWorker_next h).1
  rw [execQueueSend_eq hl] at h
  refine ⟨hl, ?_⟩
  cases ha : s.isActive <;> simp only [ha, if_true, if_false, Bool.false_eq_true] at h
  · cases h; exact .inl ⟨.inl rfl, rfl⟩
  · split at h <;> cases h
    · exact .inl ⟨.inr ‹_›, rfl⟩
    · exact .inr ⟨rfl, _, _, ‹_›, rfl⟩

/-- What `FORCE_ACK` can answer (R134). -/
theorem execForceAck_next {s t : State} (h : execForceAck s = .next t) :
    s.InLoop ∧ (s.w < s.unconfirmedCount ∧ t = s.sendS ∨ s.unconfirmedCount ≤ s.w ∧ t = s) := by
  have hl := (whenWorker_next h).1
  rw [execForceAck_eq hl] at h
  refine ⟨hl, ?_⟩
  split at h <;> cases h
  · exact .inl ⟨‹_›, rfl⟩
  · exact .inr ⟨by omega, rfl⟩

/-- What `T3_RESET` answers (R151). -/
theorem execT3Reset_next {s t : State} (h : execT3Reset s = .next t) :
    s.InLoop ∧ t = s.sample.setIdleDeadline := by
  have hl := (whenWorker_next h).1
  rw [execT3Reset_eq hl] at h
  cases h
  exact ⟨hl, rfl⟩

/-- What an operation other than `ITERATE` has done when it answers a next state: one line per
instruction. -/
def Effect (s t : State) : Instr → Prop
  | .rxI f =>
    (f.tail.length + 3 < s.iMinSize ∧ t = s.trapEntry (.frameTooShort (f.tail.length + 1))) ∨
      (s.iMinSize ≤ f.tail.length + 3 ∧ ∃ c2 c3 c4 asdu, f.tail = c2 :: c3 :: c4 :: asdu ∧
        t = ((s.logEvent (.rxI (decSeq f.c1 c2) (decSeq c3 c4))).countI).dispatchAsdu asdu)
  | .rxStartdtAct _ => t = (s.txAppend (writeUFrame 0x0B)).setActive true
  | .rxStopdtAct _ => t = (s.txAppend (writeUFrame 0x23)).setActive false
  | .rxTestfrAct _ => t = s.txAppend (writeUFrame 0x83)
  | .rxTestfrCon _ => t = { s with outstandingTestProbes := 0 }
  | .rxS f => t = s.logEvent (.rxS ((frameFields f).map (·.2.1)))
  | .rxUnknown f => t = s.logEvent (.unknownControl f.c1)
  | .txI asdu ns nr => asdu.length ≤ 251 ∧ t = s.txAppend (writeIFrame asdu ns nr)
  | .txS nr => t = s.txAppend (writeSFrame nr)
  | .txStartdtCon => t = s.txAppend (writeUFrame 0x0B)
  | .txStopdtCon => t = s.txAppend (writeUFrame 0x23)
  | .txTestfrCon => t = s.txAppend (writeUFrame 0x83)
  | .txTestfrAct => t = s.txAppend (writeUFrame 0x43)
  | .readFrame =>
    (s.rx = [] ∧ s.rxEof = true ∧ t = s.closeWindow.trapEntry .socketClosed) ∨
      (headOf s.rx = .incomplete s.rx.length ∧ s.rxEof = true ∧
        t = s.closeWindow.trapEntry (.framingError s.rx.length)) ∨
      ((s.rx = [] ∨ headOf s.rx = .incomplete s.rx.length) ∧ s.rxEof = false ∧
        t = s.closeWindow) ∨
      (∃ b rest, s.rx = b :: rest ∧ b ≠ startByte ∧ t = s.closeWindow.dropByte b rest) ∨
      ∃ body rest, s.rx = frameOf body ++ rest ∧ body.length ≤ 255 ∧
        t = s.closeWindow.deliver body rest
  | .resync => ∃ b rest, s.rx = b :: rest ∧ b ≠ startByte ∧ t = s.closeWindow.dropByte b rest
  | .classify n =>
    (n < 3 ∧ t = s.trapEntry (.frameTooShort (n - 2))) ∨
      (3 ≤ n ∧ ∃ c1, s.fb.read 2 = some c1 ∧ t = s.setClass (classOf c1))
  | .sendI asdu => t = s.sendI asdu
  | .sendS => t = s.sendS
  | .forceAck => s.w < s.unconfirmedCount ∧ t = s.sendS ∨ s.unconfirmedCount ≤ s.w ∧ t = s
  | .t3Reset => t = s.sample.setIdleDeadline
  | .t3Check =>
    (s.nextIdleTimeoutAt < s.timeRead ∧ s.probeLimit < s.outstandingTestProbes ∧
        t = s.sample.trapEntry (.livenessFailure s.outstandingTestProbes)) ∨
      (s.nextIdleTimeoutAt < s.timeRead ∧ s.outstandingTestProbes ≤ s.probeLimit ∧
        t = { s with
          now := s.timeRead
          clock := s.clock.tail
          tx := s.tx ++ [writeUFrame 0x43]
          outstandingTestProbes := s.outstandingTestProbes + 1
          nextIdleTimeoutAt := s.timeRead + s.t3 * s.tps }) ∨
      (s.timeRead ≤ s.nextIdleTimeoutAt ∧ t = s.sample)
  | .t2Check =>
    (0 < s.unconfirmedCount ∧ s.lastConfirmationTime ≤ s.timeRead ∧
        s.t2 * s.tps ≤ s.timeRead - s.lastConfirmationTime ∧ t = s.sample.sendS) ∨
      ((s.unconfirmedCount = 0 ∨ (s.lastConfirmationTime ≤ s.timeRead ∧
        s.timeRead - s.lastConfirmationTime < s.t2 * s.tps)) ∧ t = s.sample)
  | .queueSend =>
    (s.isActive = false ∨ s.oq = []) ∧ t = s ∨
      s.isActive = true ∧ ∃ a q, s.oq = a :: q ∧ t = ({ s with oq := q } : State).sendI a
  | .iterate => True
  | .doClose =>
    s.phase = .closing ∧ t = { s with
      rxEof := true, rx := [], out := s.out ++ [.sockClose, .deregister], phase := .closed }
  | .close => t = { s with isRunning := false }
  | .notify => t = s
  | .sendAsdu asdu => t = s.sendI asdu
  | .sendActCon asdu negative => t = s.sendI (Config.codecActCon asdu negative)
  | .sendActTerm asdu => t = s.sendI (Config.codecActTerm asdu)

/-- Every operation but `ITERATE`, inverted once. -/
theorem exec_next {i : Instr} {s t : State} (h : exec i s = .next t) : Effect s t i := by
  cases i with
  | rxI f => exact (execRxI_next h).2
  | readFrame => exact (execReadFrame_next h).2
  | resync => exact (execResync_next h).2
  | classify n => exact (execClassify_next h).2
  | forceAck => exact (execForceAck_next h).2
  | t3Reset => exact (execT3Reset_next h).2
  | t3Check => exact (execT3Check_next h).2
  | t2Check => exact (execT2Check_next h).2
  | queueSend => exact (execQueueSend_next h).2
  | iterate => trivial
  | doClose =>
    simp only [exec, execDoClose] at h
    split at h <;> cases h
    exact ⟨‹_›, rfl⟩
  | close => cases h; rfl
  | notify => cases h; rfl
  | txI asdu ns nr =>
    simp only [exec, execTxI] at h
    obtain ⟨_, h⟩ := whenWorker_next h
    split at h <;> cases h
    exact ⟨Nat.le_of_not_lt ‹_›, rfl⟩
  | _ =>
    simp only [exec, execRxStartdtAct, execRxStopdtAct, execRxTestfrAct, execRxTestfrCon, execRxS,
      execRxUnknown, execTxS, execTxStartdtCon, execTxStopdtCon, execTxTestfrCon, execTxTestfrAct,
      execSendI, execSendS, execSendAsdu, execSendActCon, execSendActTerm] at h
    obtain ⟨_, h⟩ := whenWorker_next h
    cases h
    rfl

/-- The operations executed in every phase: the host's, and the closing step (R9, R243). -/
theorem exec_inLoop {i : Instr} {s t : State} (h : exec i s = .next t) (h1 : i ≠ .doClose)
    (h2 : i ≠ .close) (h3 : i ≠ .notify) : s.InLoop := by
  cases i with
  | doClose => exact absurd rfl h1
  | close => exact absurd rfl h2
  | notify => exact absurd rfl h3
  | _ =>
    simp only [exec, execRxI, execRxStartdtAct, execRxStopdtAct, execRxTestfrAct, execRxTestfrCon,
      execRxS, execRxUnknown, execTxI, execTxS, execTxStartdtCon, execTxStopdtCon, execTxTestfrCon,
      execTxTestfrAct, execReadFrame, execResync, execClassify, execSendI, execSendS, execForceAck,
      execT3Reset, execT3Check, execT2Check, execQueueSend, execIterate, execSendAsdu,
      execSendActCon, execSendActTerm] at h
    exact (whenWorker_next h).1

/-! ### One iteration -/

/-- What `ITERATE` can answer (R209): the close request, or step 1 and what follows it. -/
theorem execIterate_next {s t : State} (h : execIterate s = .next t) :
    s.InLoop ∧
      ((s.isRunning = false ∧ t = s.trapEntry .closeRequested) ∨
        (s.isRunning = true ∧ ∃ r, readAndRoute s.enterLoop = .next r ∧
          (r.phase = .closing ∧ t = r ∨ r.phase ≠ .closing ∧ afterRead r = .next t))) := by
  obtain ⟨hl, h⟩ := whenWorker_next h
  refine ⟨hl, ?_⟩
  cases ha : s.isRunning <;> simp only [ha, if_true, if_false, Bool.false_eq_true] at h
  · cases h; exact .inl ⟨rfl, rfl⟩
  · right
    rcases andThen_next h with ⟨h, hp⟩ | ⟨r, h, hp, h'⟩
    · exact ⟨rfl, t, h, .inl ⟨hp, rfl⟩⟩
    · exact ⟨rfl, r, h, .inr ⟨hp, h'⟩⟩

/-- `CLASSIFY` on a delivered frame (R105, R103). -/
theorem execClassify_delivered {u : State} {c1 : Byte} {tail : List Byte} (hl : u.InLoop)
    (hu : u.fb = Memory.writeList [] 0 (frameOf (c1 :: tail))) (h : tail.length ≤ 254) :
    execClassify (tail.length + 3) u = .next (u.setClass (classOf c1)) := by
  have hr : u.fb.read 2 = some c1 := by
    rw [hu, Memory.read_frame _ _ (by simp [frameOf]; omega)]
    simp [frameOf]
  rw [execClassify_eq hl, if_neg (by omega), hr]

/-- A delivered frame with a first control octet is classified and routed (R203). -/
theorem classify_route_delivered {u : State} {c1 : Byte} {tail : List Byte} (hl : u.InLoop)
    (hu : u.fb = Memory.writeList [] 0 (frameOf (c1 :: tail))) (h : tail.length ≤ 254) :
    andThen (execClassify (tail.length + 3) u) (routeFrame (tail.length + 3))
      = andThen (runReceived (classOf c1) ⟨c1, tail⟩ (u.setClass (classOf c1)))
          execT3Reset := by
  have hc := execClassify_delivered hl hu h
  have hf : State.fetchFrame (u.setClass (classOf c1)) (tail.length + 3)
      = some ⟨c1, tail⟩ := State.fetchFrame_delivered (by exact hu) h
  have hp : (u.setClass (classOf c1)).phase ≠ .closing := by
    rcases hl with hl | hl <;> simp [hl]
  rw [hc, andThen_of_not_closing _ hp]
  unfold routeFrame
  rw [hf, State.setClass_cls]

/-- What step 1 can answer (R203). `u` is the state after `READ_FRAME`. -/
theorem readAndRoute_next {s t : State} (h : readAndRoute s = .next t) :
    ∃ u, execReadFrame s = .next u ∧
      ((u.delivered = none ∧ t = u.closeWindow) ∨
        (∃ rest, s.rx = frameOf [] ++ rest ∧ u = s.closeWindow.deliver [] rest ∧
          t = (u.trapEntry (.frameTooShort 0)).closeWindow) ∨
        ∃ c1 tail rest x, tail.length ≤ 254 ∧ s.rx = frameOf (c1 :: tail) ++ rest ∧
          u = s.closeWindow.deliver (c1 :: tail) rest ∧
          runReceived (classOf c1) ⟨c1, tail⟩ (u.setClass (classOf c1)) = .next x ∧
          (x.phase = .closing ∧ t = x.closeWindow ∨
            x.phase ≠ .closing ∧ x.InLoop ∧ t = x.sample.setIdleDeadline.closeWindow)) := by
  obtain ⟨r, hr, rfl⟩ := mapNext_next h
  clear h
  have h := hr
  rcases andThen_next h with ⟨h, hp⟩ | ⟨u, hu, hp, h'⟩
  · refine ⟨_, h, .inl ⟨?_, rfl⟩⟩
    obtain ⟨hl, hc⟩ := execReadFrame_next h
    rcases hc with ⟨_, _, rfl⟩ | ⟨_, _, rfl⟩ | ⟨_, _, rfl⟩ | ⟨b, rest, _, _, rfl⟩ |
      ⟨body, rest, _, _, rfl⟩
    · simp
    · simp
    · simp
    · simp
    · rcases hl with hl | hl <;> simp [hl] at hp
  · refine ⟨u, hu, ?_⟩
    obtain ⟨hl, hc⟩ := execReadFrame_next hu
    rcases hc with ⟨_, _, rfl⟩ | ⟨_, _, rfl⟩ | ⟨_, _, rfl⟩ | ⟨b, rest, _, _, rfl⟩ |
      ⟨body, rest, hrx, hbody, rfl⟩
    · simp at hp
    · simp at hp
    · simp at h'
      cases h'
      exact .inl ⟨by simp, rfl⟩
    · simp at h'
      cases h'
      exact .inl ⟨by simp, rfl⟩
    · right
      have hlu : (s.closeWindow.deliver body rest).InLoop := by simpa [State.InLoop] using hl
      simp only [State.deliver_delivered] at h'
      cases body with
      | nil =>
        left
        refine ⟨rest, hrx, rfl, ?_⟩
        simp [execClassify, whenWorker_inLoop _ hlu, andThen] at h'
        rw [← h']
      | cons c1 tail =>
        right
        have htail : tail.length ≤ 254 := by simp at hbody; omega
        have hfb : (s.closeWindow.deliver (c1 :: tail) rest).fb
            = Memory.writeList [] 0 (frameOf (c1 :: tail)) := by simp
        have := classify_route_delivered hlu hfb htail
        simp only [List.length_cons] at h'
        rw [show tail.length + 1 + 2 = tail.length + 3 from rfl, this] at h'
        rcases andThen_next h' with ⟨h', hp'⟩ | ⟨x, hx, hp', h''⟩
        · exact ⟨c1, tail, rest, r, htail, hrx, rfl, h', .inl ⟨hp', rfl⟩⟩
        · obtain ⟨hlx, rfl⟩ := execT3Reset_next h''
          exact ⟨c1, tail, rest, x, htail, hrx, rfl, hx, .inr ⟨hp', hlx, rfl⟩⟩

/-- Step 1 without a complete frame on an open stream (R203). -/
theorem readAndRoute_idle {s : State} (hl : s.InLoop) (he : s.rxEof = false)
    (h : s.rx = [] ∨ headOf s.rx = .incomplete s.rx.length) :
    readAndRoute s = .next s.closeWindow := by
  have hr : execReadFrame s = .next s.closeWindow := by
    rw [execReadFrame_eq hl]
    rcases h with h | h
    · rw [h]; simp [headOf, he]
    · rw [h]; simp [he]
  have hp : s.closeWindow.phase ≠ .closing := by rcases hl with hl | hl <;> simp [hl]
  rw [readAndRoute, hr, andThen_of_not_closing _ hp]
  rfl

/-- Step 1 on a byte that is no start byte, with the spec's default of BAD_START_FATAL: `RESYNC` and
nothing more (R102, R203). -/
theorem readAndRoute_badStart {s : State} (hl : s.InLoop) (hb : s.badStartFatal = false) {b : Byte}
    {rest : List Byte} (h : s.rx = b :: rest) (hne : b ≠ startByte) :
    readAndRoute s
      = .next ({ s.logEvent (.missingStartByte b) with rx := rest } : State).closeWindow := by
  have hr : execReadFrame s
      = .next { s.closeWindow.logEvent (.missingStartByte b) with rx := rest } := by
    rw [execReadFrame_eq hl, h, headOf_of_ne rest hne]
    simp [State.dropByte, hb]
  have hp : ({ s.closeWindow.logEvent (.missingStartByte b) with rx := rest } : State).phase
      ≠ .closing := by rcases hl with hl | hl <;> simp [hl]
  rw [readAndRoute, hr, andThen_of_not_closing _ hp]
  rfl

/-- Step 1 with a complete frame that has a first control octet (R203). -/
theorem readAndRoute_frame {s : State} (hl : s.InLoop) {c1 : Byte} {tail rest : List Byte}
    (h : s.rx = frameOf (c1 :: tail) ++ rest) (ht : tail.length ≤ 254) :
    readAndRoute s = mapNext State.closeWindow
      (andThen (runReceived (classOf c1) ⟨c1, tail⟩
        ((s.closeWindow.deliver (c1 :: tail) rest).setClass (classOf c1))) execT3Reset) := by
  have hr : execReadFrame s = .next (s.closeWindow.deliver (c1 :: tail) rest) := by
    rw [execReadFrame_eq hl, h, headOf_frameOf _ _ (by simp; omega)]
  have hl' : (s.closeWindow.deliver (c1 :: tail) rest).InLoop := by simpa [State.InLoop] using hl
  have hp : (s.closeWindow.deliver (c1 :: tail) rest).phase ≠ .closing := by
    rcases hl with hl | hl <;> simp [hl]
  rw [readAndRoute, hr, andThen_of_not_closing _ hp, State.deliver_delivered]
  exact congrArg _ (classify_route_delivered hl' (by simp) ht)

/-- `ITERATE` with no close request: the loop is entered, step 1, then steps 2 to 5 (R209). -/
theorem execIterate_running {s : State} (hl : s.InLoop) (h : s.isRunning = true) :
    execIterate s = andThen (readAndRoute { s with phase := .running }) afterRead := by
  have he : s.enterLoop = { s with phase := .running } := by
    have := State.enterLoop_phase s hl
    unfold State.enterLoop
    split
    · rfl
    · have : s.phase = .running := hl.resolve_left ‹_›
      rw [← this]
  rw [execIterate, whenWorker_inLoop _ hl, he]
  simp [h]

/-- What steps 2 to 5 can answer (R204 to R207). -/
theorem afterRead_next {s t : State} (h : afterRead s = .next t) :
    ∃ q f c, execQueueSend s = .next q ∧ execForceAck q = .next f ∧ execT3Check f = .next c ∧
      (c.phase = .closing ∧ t = c ∨ c.phase ≠ .closing ∧ execT2Check c = .next t) := by
  rcases andThen_next h with ⟨h, hp⟩ | ⟨q, hq, _, h⟩
  · obtain ⟨hl, hc⟩ := execQueueSend_next h
    rcases hc with ⟨_, rfl⟩ | ⟨_, a, q, _, rfl⟩ <;>
      rcases hl with hl | hl <;> simp [hl] at hp
  rcases andThen_next h with ⟨h, hp⟩ | ⟨f, hf, _, h⟩
  · obtain ⟨hl, hc⟩ := execForceAck_next h
    rcases hc with ⟨_, rfl⟩ | ⟨_, rfl⟩ <;> rcases hl with hl | hl <;> simp [hl] at hp
  rcases andThen_next h with ⟨h, hp⟩ | ⟨c, hc, hp, h⟩
  · exact ⟨q, f, t, hq, hf, h, .inl ⟨hp, rfl⟩⟩
  · exact ⟨q, f, c, hq, hf, hc, .inr ⟨hp, h⟩⟩

/-- The received operation of a class is the meaning of its instruction. -/
theorem runReceived_eq_exec (c : FrameClass) (f : RxFrame) (s : State) :
    runReceived c f s = exec (receivedInstr c f) s := by
  cases c <;> rfl

/-- The operations an iteration runs (R203 to R207). -/
def inIteration : Instr → Bool
  | .rxI _ | .rxStartdtAct _ | .rxStopdtAct _ | .rxTestfrAct _ | .rxTestfrCon _ | .rxS _
  | .rxUnknown _ | .readFrame | .classify _ | .t3Reset | .queueSend | .forceAck | .t3Check
  | .t2Check => true
  | .txI _ _ _ | .txS _ | .txStartdtCon | .txStopdtCon | .txTestfrCon | .txTestfrAct | .resync
  | .sendI _ | .sendS | .iterate | .doClose | .close | .notify | .sendAsdu _ | .sendActCon _ _
  | .sendActTerm _ => false

theorem inIteration_receivedInstr (c : FrameClass) (f : RxFrame) :
    inIteration (receivedInstr c f) = true := by
  cases c <;> rfl

/-- The one induction over an iteration: what holds on entering the loop and is kept by the worker's
operations and the end of FB's window holds after `ITERATE`. -/
theorem execIterate_keeps (P : State → Prop) {s t : State}
    (hops : ∀ i u v, inIteration i = true → P u → exec i u = .next v → P v)
    (hwindow : ∀ u : State, P u → P u.closeWindow)
    (henter : s.isRunning = true → P s.enterLoop)
    (hclose : s.isRunning = false → P (s.trapEntry .closeRequested))
    (h : execIterate s = .next t) : P t := by
  have op : ∀ (i : Instr) {s t : State}, inIteration i = true → P s → exec i s = .next t → P t :=
    fun i s t hi hs h => hops i s t hi hs h
  obtain ⟨hl, ⟨hn, rfl⟩ | ⟨hn, r, hr, hcont⟩⟩ := execIterate_next h
  · exact hclose hn
  have hr : P r := by
    obtain ⟨u, hu, hcase⟩ := readAndRoute_next hr
    have hPu : P u := op .readFrame rfl (henter hn) hu
    rcases hcase with ⟨_, rfl⟩ | ⟨rest, _, rfl, rfl⟩ | ⟨c1, tail, rest, x, htail, _, rfl, hx, hcase⟩
    · exact hwindow u hPu
    · apply hwindow
      refine op (.classify 2) rfl hPu ?_
      have hlu : (s.enterLoop.closeWindow.deliver [] rest).InLoop := by
        right; simp [State.enterLoop_phase s hl]
      simp [exec, execClassify, whenWorker_inLoop _ hlu]
    · have hlu : (s.enterLoop.closeWindow.deliver (c1 :: tail) rest).InLoop := by
        right; simp [State.enterLoop_phase s hl]
      have hPc := op (.classify (tail.length + 3)) rfl hPu
        (execClassify_delivered (c1 := c1) hlu (by simp) htail)
      have hPx : P x := op _ (inIteration_receivedInstr _ _) hPc
        ((runReceived_eq_exec (classOf c1) ⟨c1, tail⟩ _).symm.trans hx)
      rcases hcase with ⟨_, rfl⟩ | ⟨_, hlx, rfl⟩
      · exact hwindow x hPx
      · apply hwindow
        refine op .t3Reset rfl hPx ?_
        simp [exec, execT3Reset, whenWorker_inLoop _ hlx]
  rcases hcont with ⟨_, rfl⟩ | ⟨_, hafter⟩
  · exact hr
  obtain ⟨q, f, c, hq, hf, hc, hend⟩ := afterRead_next hafter
  have hPq : P q := op .queueSend rfl hr hq
  have hPf : P f := op .forceAck rfl hPq hf
  have hPc : P c := op .t3Check rfl hPf hc
  rcases hend with ⟨_, rfl⟩ | ⟨_, h2⟩
  · exact hPc
  · exact op .t2Check rfl hPc h2

/-! ### One step -/

/-- What a step can answer: the worker's `ITERATE` or `DO_CLOSE`, or a move of the environment. -/
theorem step_next {s t : State} (h : step s = .next t) :
    let s' : State := { s with sched := s.sched.tail }
    (s.InLoop ∧ execIterate s' = .next t) ∨
      (s.phase = .closing ∧ execDoClose s' = .next t) ∨
      (∃ bytes, s.phase ≠ .closed ∧ s.rxEof = false ∧ t = { s' with rx := s.rx ++ bytes }) ∨
      (s.phase = .closed ∧ t = s') ∨ t = { s' with rxEof := true } ∨
      (∃ a, t = { s' with oq := s.oq ++ [a] }) ∨ t = { s' with isRunning := false } ∨ t = s' ∨
      ∃ d, t = { s' with now := s.now + d } := by
  intro s'
  have hw : ∀ {u : State}, u.phase = s.phase → workerStep u = .next t →
      (s.InLoop ∧ execIterate u = .next t) ∨ (s.phase = .closing ∧ execDoClose u = .next t) := by
    intro u hu h
    unfold workerStep at h
    split at h
    · exact .inl ⟨.inl (by rw [← hu]; assumption), h⟩
    · exact .inl ⟨.inr (by rw [← hu]; assumption), h⟩
    · exact .inr ⟨by rw [← hu]; assumption, h⟩
    · cases h
  unfold step nextMove at h
  split at h
  · rename_i hs
    have : s' = s := by simp [s', hs]; cases s; simp_all
    rw [this]
    rcases hw rfl h with h | h
    · exact .inl h
    · exact .inr (.inl h)
  · rename_i m ms hs
    have : ({ s with sched := ms } : State) = s' := by simp [s', hs]
    rw [this] at h
    cases m with
    | worker =>
      rcases hw (u := s') rfl h with h | h
      · exact .inl h
      · exact .inr (.inl h)
    | rx bytes =>
      simp only [runMove] at h
      by_cases hc : s.phase = .closed
      · rw [if_pos (show s'.phase = .closed from hc)] at h
        injection h with h
        exact .inr (.inr (.inr (.inl ⟨hc, h.symm⟩)))
      · rw [if_neg (show ¬ s'.phase = .closed from hc)] at h
        by_cases he : s.rxEof = true
        · rw [if_pos (show s'.rxEof = true from he)] at h
          cases h
        · rw [if_neg (show ¬ s'.rxEof = true from he)] at h
          injection h with h
          exact .inr (.inr (.inl ⟨bytes, hc, by simpa using he, h.symm⟩))
    | rxEof =>
      injection h with h
      exact .inr (.inr (.inr (.inr (.inl h.symm))))
    | enq a =>
      injection h with h
      exact .inr (.inr (.inr (.inr (.inr (.inl ⟨a, h.symm⟩)))))
    | close =>
      injection h with h
      exact .inr (.inr (.inr (.inr (.inr (.inr (.inl h.symm))))))
    | notify =>
      injection h with h
      exact .inr (.inr (.inr (.inr (.inr (.inr (.inr (.inl h.symm)))))))
    | advance d =>
      injection h with h
      exact .inr (.inr (.inr (.inr (.inr (.inr (.inr (.inr ⟨d, h.symm⟩)))))))

/-- The worker's turn, whatever the phase (R200): scheduled, or with nothing scheduled. -/
theorem step_workerStep {s : State} (hs : s.sched = [] ∨ ∃ ms, s.sched = .worker :: ms) :
    step s = workerStep { s with sched := s.sched.tail } := by
  rcases hs with hs | ⟨ms, hs⟩
  · have : ({ s with sched := s.sched.tail } : State) = s := by
      obtain ⟨⟩ := s
      simp at hs
      simp [hs]
    rw [this]
    simp only [step, nextMove, hs]
  · simp only [step, nextMove, hs, runMove, List.tail_cons]

/-- The worker's turn in the loop is `ITERATE` (R200). -/
theorem step_worker {s : State} (hl : s.InLoop)
    (hs : s.sched = [] ∨ ∃ ms, s.sched = .worker :: ms) :
    step s = execIterate { s with sched := s.sched.tail } := by
  rw [step_workerStep hs, workerStep]
  rcases hl with hl | hl <;> simp only [hl] <;> rfl

/-- A run is a step and the rest of the run. -/
theorem run_succ {M : Host.Core} (k : Nat) {s t : M.State} (h : M.step s = .next t) :
    M.run (k + 1) s = M.run k t := by
  simp [Host.Core.run, h]

theorem core_run_succ (k : Nat) {s t : State} (h : step s = .next t) :
    Host.Core.run Sys2Proof.core (k + 1) s = Host.Core.run Sys2Proof.core k t :=
  run_succ (M := Sys2Proof.core) k h

end Sys2Proof.Machine
end

