-- ==== Sys2Proof/Laws/PerInstr.lean ====
section
/-! SUPPORT. The family `EncodedFrame`, one lemma per instruction: the frame of a well-formed
instruction starts with the start byte, its length byte counts what follows, and what follows has a
first control octet (R70); an instruction without a frame is no received or transmitted frame
operation (R10). -/

namespace Sys2Proof.Laws.EncodedFrame

/-- What the family says of one instruction. -/
def Statement (i : Instr) : Prop :=
  i.wf = true →
    match encode i with
    | some e => ∃ (len c1 : Byte) (more : List Byte), e = 0x68 :: len :: c1 :: more ∧
        len.toNat = more.length + 1
    | none => i.isReceived = false ∧ i.isTransmitted = false

/-- A received frame of any class. -/
theorem received (c : FrameClass) (f : RxFrame) : Statement (receivedInstr c f) := by
  intro h
  rw [wf_receivedInstr, RxFrame.wf_iff] at h
  rw [encode_receivedInstr]
  refine ⟨BitVec.ofNat 8 (f.tail.length + 1), f.c1, f.tail, rfl, ?_⟩
  simp only [BitVec.toNat_ofNat]
  omega

theorem rxI (f : RxFrame) : Statement (.rxI f) :=
  received .i f

theorem rxStartdtAct (f : RxFrame) : Statement (.rxStartdtAct f) :=
  received .startdtAct f

theorem rxStopdtAct (f : RxFrame) : Statement (.rxStopdtAct f) :=
  received .stopdtAct f

theorem rxTestfrAct (f : RxFrame) : Statement (.rxTestfrAct f) :=
  received .testfrAct f

theorem rxTestfrCon (f : RxFrame) : Statement (.rxTestfrCon f) :=
  received .testfrCon f

theorem rxS (f : RxFrame) : Statement (.rxS f) :=
  received .s f

theorem rxUnknown (f : RxFrame) : Statement (.rxUnknown f) :=
  received .unknown f

theorem txI (asdu : Asdu) (ns nr : Seq) : Statement (.txI asdu ns nr) := by
  intro h
  have h : asdu.length ≤ 251 := by simpa [Instr.wf] using h
  refine ⟨BitVec.ofNat 8 (4 + asdu.length), encLo ns, encHi ns :: encLo nr :: encHi nr :: asdu,
    rfl, ?_⟩
  simp only [BitVec.toNat_ofNat, List.length_cons]
  omega

theorem txS (nr : Seq) : Statement (.txS nr) :=
  fun _ => ⟨0x04, 0x01, [0x00, encLo nr, encHi nr], rfl, rfl⟩

theorem txStartdtCon : Statement .txStartdtCon :=
  fun _ => ⟨0x04, 0x0B, [0x00, 0x00, 0x00], rfl, rfl⟩

theorem txStopdtCon : Statement .txStopdtCon :=
  fun _ => ⟨0x04, 0x23, [0x00, 0x00, 0x00], rfl, rfl⟩

theorem txTestfrCon : Statement .txTestfrCon :=
  fun _ => ⟨0x04, 0x83, [0x00, 0x00, 0x00], rfl, rfl⟩

theorem txTestfrAct : Statement .txTestfrAct :=
  fun _ => ⟨0x04, 0x43, [0x00, 0x00, 0x00], rfl, rfl⟩

theorem readFrame : Statement .readFrame :=
  fun _ => ⟨rfl, rfl⟩

theorem resync : Statement .resync :=
  fun _ => ⟨rfl, rfl⟩

theorem classify (n : Nat) : Statement (.classify n) :=
  fun _ => ⟨rfl, rfl⟩

theorem sendI (asdu : Asdu) : Statement (.sendI asdu) :=
  fun _ => ⟨rfl, rfl⟩

theorem sendS : Statement .sendS :=
  fun _ => ⟨rfl, rfl⟩

theorem forceAck : Statement .forceAck :=
  fun _ => ⟨rfl, rfl⟩

theorem t3Reset : Statement .t3Reset :=
  fun _ => ⟨rfl, rfl⟩

theorem t3Check : Statement .t3Check :=
  fun _ => ⟨rfl, rfl⟩

theorem t2Check : Statement .t2Check :=
  fun _ => ⟨rfl, rfl⟩

theorem queueSend : Statement .queueSend :=
  fun _ => ⟨rfl, rfl⟩

theorem iterate : Statement .iterate :=
  fun _ => ⟨rfl, rfl⟩

theorem doClose : Statement .doClose :=
  fun _ => ⟨rfl, rfl⟩

theorem close : Statement .close :=
  fun _ => ⟨rfl, rfl⟩

theorem notify : Statement .notify :=
  fun _ => ⟨rfl, rfl⟩

theorem sendAsdu (asdu : Asdu) : Statement (.sendAsdu asdu) :=
  fun _ => ⟨rfl, rfl⟩

theorem sendActCon (asdu : Asdu) (negative : Bool) : Statement (.sendActCon asdu negative) :=
  fun _ => ⟨rfl, rfl⟩

theorem sendActTerm (asdu : Asdu) : Statement (.sendActTerm asdu) :=
  fun _ => ⟨rfl, rfl⟩

end Sys2Proof.Laws.EncodedFrame
end

