-- ==== Sys2Proof/Tests/Slice0.lean ====
section
/-! SUPPORT. Tests of this model. Expected values are those of spec/95_test_vectors.md (named by their
vector, V…, or program, P…) or are written out by hand from the rule named. -/

namespace Sys2Proof.Tests

open Sys2Proof Sys2Proof.Machine

/-- A connection in its loop. -/
def running : State := { State.reset with phase := .running }

/-- A connection in its loop and in data-transfer mode. -/
def active : State := { running with isActive := true }

/-- A connection after a raise. -/
def closing : State := { State.reset with phase := .closing, isRunning := false }

/-- A connection that is over. -/
def closed : State := { closing with phase := .closed, rxEof := true, out := [.sockClose, .deregister] }

/-- What holds of the next state. -/
def after (r : Result) (p : State → Bool) : Bool :=
  match r with
  | .next t => p t
  | .fault _ => false
  | .refused _ => false

/-- An ASDU of a given length. -/
def bytes (n : Nat) : List Byte := List.replicate n 0xAA

@[simp] theorem length_bytes (n : Nat) : (bytes n).length = n := List.length_replicate ..

/-! ### Well-formedness: one ill-formed term for each check -/

theorem test_wf_rxI_class : (Instr.rxI ⟨0x01, [0, 0, 0]⟩).wf = false := by decide
theorem test_wf_rxI_length : (Instr.rxI ⟨0x00, bytes 255⟩).wf = false := by
  simp [Instr.wf, RxFrame.wf]
theorem test_wf_rxStartdtAct_class : (Instr.rxStartdtAct ⟨0x0B, []⟩).wf = false := by decide
theorem test_wf_rxStartdtAct_length : (Instr.rxStartdtAct ⟨0x07, bytes 255⟩).wf = false := by
  simp [Instr.wf, RxFrame.wf]
theorem test_wf_rxStopdtAct_class : (Instr.rxStopdtAct ⟨0x23, []⟩).wf = false := by decide
theorem test_wf_rxStopdtAct_length : (Instr.rxStopdtAct ⟨0x13, bytes 255⟩).wf = false := by
  simp [Instr.wf, RxFrame.wf]
theorem test_wf_rxTestfrAct_class : (Instr.rxTestfrAct ⟨0x83, []⟩).wf = false := by decide
theorem test_wf_rxTestfrAct_length : (Instr.rxTestfrAct ⟨0x43, bytes 255⟩).wf = false := by
  simp [Instr.wf, RxFrame.wf]
theorem test_wf_rxTestfrCon_class : (Instr.rxTestfrCon ⟨0xC3, []⟩).wf = false := by decide
theorem test_wf_rxTestfrCon_length : (Instr.rxTestfrCon ⟨0x83, bytes 255⟩).wf = false := by
  simp [Instr.wf, RxFrame.wf]
theorem test_wf_rxS_class : (Instr.rxS ⟨0x02, []⟩).wf = false := by decide
theorem test_wf_rxS_length : (Instr.rxS ⟨0x01, bytes 255⟩).wf = false := by
  simp [Instr.wf, RxFrame.wf]
theorem test_wf_rxUnknown_class : (Instr.rxUnknown ⟨0x07, []⟩).wf = false := by decide
theorem test_wf_rxUnknown_length : (Instr.rxUnknown ⟨0x03, bytes 255⟩).wf = false := by
  simp [Instr.wf, RxFrame.wf]
theorem test_wf_txI_length : (Instr.txI (bytes 252) 0 0).wf = false := by simp [Instr.wf]
theorem test_wf_classify_low : (Instr.classify 1).wf = false := by decide
theorem test_wf_classify_high : (Instr.classify 258).wf = false := by decide

/-! ### Decoding: words written out from R70 to R73 and the mask tests of R79 -/

theorem test_decode_rxI : decode [0x68, 0x05, 0x0E, 0x00, 0xFE, 0xFF, 0xAA]
    = .ok (.rxI ⟨0x0E, [0x00, 0xFE, 0xFF, 0xAA]⟩, []) := rfl
/-- V41-15: N(S) = 100, N(R) = 200. -/
theorem test_decode_rxI_fields : frameFields ⟨0xC8, [0x00, 0x90, 0x01, 0xAA]⟩
    = some (100, 200, [0xAA]) := by decide
theorem test_decode_rxStartdtAct : decode [0x68, 0x04, 0x07, 0x00, 0x00, 0x00]
    = .ok (.rxStartdtAct ⟨0x07, [0x00, 0x00, 0x00]⟩, []) := rfl
theorem test_decode_rxStopdtAct : decode [0x68, 0x04, 0x13, 0x00, 0x00, 0x00]
    = .ok (.rxStopdtAct ⟨0x13, [0x00, 0x00, 0x00]⟩, []) := rfl
theorem test_decode_rxTestfrAct : decode [0x68, 0x04, 0x43, 0x00, 0x00, 0x00]
    = .ok (.rxTestfrAct ⟨0x43, [0x00, 0x00, 0x00]⟩, []) := rfl
theorem test_decode_rxTestfrCon : decode [0x68, 0x04, 0x83, 0x00, 0x00, 0x00]
    = .ok (.rxTestfrCon ⟨0x83, [0x00, 0x00, 0x00]⟩, []) := rfl
theorem test_decode_rxS : decode [0x68, 0x04, 0x01, 0x00, 0x12, 0x00]
    = .ok (.rxS ⟨0x01, [0x00, 0x12, 0x00]⟩, []) := rfl
theorem test_decode_rxUnknown : decode [0x68, 0x04, 0x2B, 0x00, 0x00, 0x00]
    = .ok (.rxUnknown ⟨0x2B, [0x00, 0x00, 0x00]⟩, []) := rfl
/-- V40-4: what follows the frame stays. -/
theorem test_decode_rest : decode [0x68, 0x04, 0x07, 0x00, 0x00, 0x00, 0x68, 0x04]
    = .ok (.rxStartdtAct ⟨0x07, [0x00, 0x00, 0x00]⟩, [0x68, 0x04]) := rfl
/-- V30-39 to V30-46: where two masks match, the order of the tests decides. -/
theorem test_decode_order :
    [0x47, 0x17, 0x53, 0xC3, 0xFF, 0xFB, 0xEB, 0xAB].map classOf
      = [.startdtAct, .startdtAct, .stopdtAct, .testfrAct, .startdtAct, .stopdtAct, .testfrAct,
        .testfrCon] := by decide
theorem test_decode_empty : decode [] = .error .noBytes := rfl
theorem test_decode_badStart : decode [0x55, 0x68] = .error (.badStart 0x55) := rfl
/-- V40-9g. -/
theorem test_decode_incomplete : decode [0x68, 0x68, 0x04, 0x43, 0x00, 0x00, 0x00]
    = .error (.incomplete 7) := rfl
theorem test_decode_noControlOctet : decode [0x68, 0x00] = .error .noControlOctet := rfl
/-- V40-10. -/
theorem test_decodeTx_txI : decodeTx [0x68, 0x06, 0x0A, 0x00, 0x04, 0x01, 0xAA, 0xBB]
    = .ok (.txI [0xAA, 0xBB] 5 130) := rfl
/-- V40-19. -/
theorem test_decodeTx_txS : decodeTx [0x68, 0x04, 0x01, 0x00, 0x04, 0x01] = .ok (.txS 130) := rfl
theorem test_decodeTx_txStartdtCon :
    decodeTx [0x68, 0x04, 0x0B, 0x00, 0x00, 0x00] = .ok .txStartdtCon := rfl
theorem test_decodeTx_txStopdtCon :
    decodeTx [0x68, 0x04, 0x23, 0x00, 0x00, 0x00] = .ok .txStopdtCon := rfl
theorem test_decodeTx_txTestfrCon :
    decodeTx [0x68, 0x04, 0x83, 0x00, 0x00, 0x00] = .ok .txTestfrCon := rfl
theorem test_decodeTx_txTestfrAct :
    decodeTx [0x68, 0x04, 0x43, 0x00, 0x00, 0x00] = .ok .txTestfrAct := rfl
/-- A received STARTDT_ACT is no frame of this engine (R113). -/
theorem test_decodeTx_other :
    decodeTx [0x68, 0x04, 0x07, 0x00, 0x00, 0x00] = .error .notTransmitted := rfl
theorem test_tableWord_startdt :
    decodeTableWord 8 0x07 = some (.rxStartdtAct ⟨0x07, [0x00, 0x00, 0x00]⟩) := by decide
theorem test_tableWord_notEncoded : decodeTableWord 0 0 = none := by decide
/-- S9, through the placed word. -/
theorem test_withFetchWord : after (step (State.reset.withFetchWord 8 0x07)) (fun t =>
    t.isActive && t.tx == [[0x68, 0x04, 0x0B, 0x00, 0x00, 0x00]]) = true := by decide
/-- V30-5, V30-13, V30-16. -/
theorem test_sequence_encode :
    ([64, 16383, 32767] : List Seq).map (fun n => (encLo n, encHi n))
      = [(0x80, 0x00), (0xFE, 0x7F), (0xFE, 0xFF)] := by decide
/-- V30-17, V30-18. -/
theorem test_sequence_decode : decSeq 0x0B 0x00 = 5 ∧ decSeq 0xFF 0xFF = 32767 := by decide

/-! ### Frame Codec -/

/-- V40-4. -/
theorem test_readFrame_delivers :
    after (exec .readFrame { running with rx := [0x68, 0x04, 0x07, 0, 0, 0, 0x68, 0x04] }) (fun t =>
      t.delivered == some 6 && t.rx == [0x68, 0x04] && t.fb.read 2 == some 0x07) = true := by
  decide
/-- V40-8. -/
theorem test_readFrame_raises :
    after (exec .readFrame { running with rx := [0x68, 0x04, 0x01], rxEof := true }) (fun t =>
      t.phase == .closing && t.rx == [0x68, 0x04, 0x01] && t.log == [.closing 3 (some 3)]) = true := by
  decide
/-- V40-9. -/
theorem test_resync_drops :
    after (exec .resync { running with rx := [0x00, 0x68, 0x04, 0x43, 0, 0, 0] }) (fun t =>
      t.rx == [0x68, 0x04, 0x43, 0, 0, 0] && t.log == [.missingStartByte 0x00]) = true := by
  decide
/-- D39's alternative. -/
theorem test_resync_fatal :
    after (exec .resync { running with rx := [0x00], badStartFatal := true }) (fun t =>
      t.rx == [0x00] && t.phase == .closing) = true := by decide
/-- V30-41. -/
theorem test_classify_order :
    after (exec (.classify 6) { running with fb := [(2, 0x53)] }) (fun t =>
      t.cls == some .stopdtAct) = true := by decide
/-- V60-6. -/
theorem test_classify_short :
    after (exec (.classify 2) running) (fun t => t.log == [.closing 4 (some 0)]) = true := by
  decide
/-- V40-13. -/
theorem test_txI : after (exec (.txI [0xAA] 128 127) running) (fun t =>
    t.tx == [[0x68, 0x05, 0x00, 0x01, 0xFE, 0x00, 0xAA]]) = true := by decide
/-- V40-14: the length byte at its highest value. -/
theorem test_txI_longest : after (exec (.txI (bytes 251) 1 2) running) (fun t =>
    t.tx == [[0x68, 0xFF, 0x02, 0x00, 0x04, 0x00] ++ bytes 251]) = true := by decide +kernel
/-- V40-18, V40-20. -/
theorem test_txS : after (exec (.txS 128) running) (fun t =>
    t.tx == [[0x68, 0x04, 0x01, 0x00, 0x00, 0x01]]) = true := by decide
theorem test_txS_wide : after (exec (.txS 32767) running) (fun t =>
    t.tx == [[0x68, 0x04, 0x01, 0x00, 0xFE, 0xFF]]) = true := by decide
/-- V40-21. -/
theorem test_txStartdtCon : after (exec .txStartdtCon running) (fun t =>
    t.tx == [[0x68, 0x04, 0x0B, 0x00, 0x00, 0x00]]) = true := by decide
theorem test_txStopdtCon : after (exec .txStopdtCon running) (fun t =>
    t.tx == [[0x68, 0x04, 0x23, 0x00, 0x00, 0x00]]) = true := by decide
theorem test_txTestfrCon : after (exec .txTestfrCon running) (fun t =>
    t.tx == [[0x68, 0x04, 0x83, 0x00, 0x00, 0x00]]) = true := by decide
theorem test_txTestfrAct : after (exec .txTestfrAct running) (fun t =>
    t.tx == [[0x68, 0x04, 0x43, 0x00, 0x00, 0x00]]) = true := by decide

/-! ### Sequence Manager -/

/-- V41-14: two responses, stamped with the count after the request. -/
theorem test_rxI_dispatch :
    after (exec .iterate { active with
      rx := [0x68, 0x05, 0x00, 0x00, 0x00, 0x00, 0xC1], answers := [[[0xD1], [0xD2, 0xD3]]]
      now := 100 }) (fun t =>
      t.tx == [[0x68, 0x05, 0x00, 0x00, 0x02, 0x00, 0xD1],
        [0x68, 0x06, 0x02, 0x00, 0x02, 0x00, 0xD2, 0xD3]] && t.sendCount == 2 &&
        t.receiveCount == 1) = true := by decide
/-- V41-2: no 0-to-1 transition, so the time stays. -/
theorem test_rxI_keeps_time :
    after (exec .iterate { running with
      rx := [0x68, 0x05, 0x02, 0x00, 0x00, 0x00, 0xAA], receiveCount := 1, unconfirmedCount := 1
      lastConfirmationTime := 100, now := 200 }) (fun t =>
      t.unconfirmedCount == 2 && t.lastConfirmationTime == 100 && t.nextIdleTimeoutAt == 20200)
      = true := by decide
/-- V41-12: a short S-frame. -/
theorem test_rxS_short :
    after (exec .iterate { running with rx := [0x68, 0x03, 0x01, 0x00, 0x00], now := 5000 }) (fun t =>
      t.nextIdleTimeoutAt == 25000 && t.log == [.rxS none] && t.tx == []) = true := by
  decide
/-- V41-3. -/
theorem test_sendI : after (exec (.sendI [0xAA, 0xBB])
    { running with sendCount := 5, receiveCount := 130 }) (fun t =>
    t.tx == [[0x68, 0x06, 0x0A, 0x00, 0x04, 0x01, 0xAA, 0xBB]] && t.sendCount == 6) = true := by
  decide
/-- V41-4: the counter wraps. -/
theorem test_sendI_wraps : after (exec (.sendI [0x01]) { running with sendCount := 32767 }) (fun t =>
    t.tx == [[0x68, 0x05, 0xFE, 0xFF, 0x00, 0x00, 0x01]] && t.sendCount == 0) = true := by
  decide
/-- V41-6. -/
theorem test_sendS : after (exec .sendS
    { running with receiveCount := 9, unconfirmedCount := 9, now := 7000 }) (fun t =>
    t.tx == [[0x68, 0x04, 0x01, 0x00, 0x12, 0x00]] && t.unconfirmedCount == 0 &&
      t.lastConfirmationTime == 7000) = true := by decide
/-- V41-9: 8 does not exceed 8. -/
theorem test_forceAck_strict : after (exec .forceAck { running with unconfirmedCount := 8 })
    (fun t => t.tx == [] && t.unconfirmedCount == 8) = true := by decide
/-- V41-8. -/
theorem test_forceAck : after (exec .forceAck
    { running with receiveCount := 9, unconfirmedCount := 9, now := 1900 }) (fun t =>
    t.tx == [[0x68, 0x04, 0x01, 0x00, 0x12, 0x00]] && t.unconfirmedCount == 0) = true := by
  decide
theorem test_sendAsdu : after (exec (.sendAsdu [0x01]) running) (fun t =>
    t.tx == [[0x68, 0x05, 0x00, 0x00, 0x00, 0x00, 0x01]] && t.sendCount == 1) = true := by
  decide

/-! ### Timeout Supervisor -/

/-- R151. -/
theorem test_t3Reset : after (exec .t3Reset { running with now := 1000, clock := [1] }) (fun t =>
    t.nextIdleTimeoutAt == 21001 && t.clock == []) = true := by decide
/-- V42-3. -/
theorem test_t3Check_probe : after (exec .t3Check { running with
    outstandingTestProbes := 2, nextIdleTimeoutAt := 60002, now := 60003 }) (fun t =>
    t.outstandingTestProbes == 3 && t.nextIdleTimeoutAt == 80003 &&
      t.tx == [[0x68, 0x04, 0x43, 0x00, 0x00, 0x00]]) = true := by decide
/-- V42-5. -/
theorem test_t3Check_verdict : after (exec .t3Check { running with
    outstandingTestProbes := 3, nextIdleTimeoutAt := 80003, now := 80004 }) (fun t =>
    t.phase == .closing && t.tx == [] && t.nextIdleTimeoutAt == 80003) = true := by decide
/-- V42-6. -/
theorem test_t2Check_early : after (exec .t2Check { running with
    unconfirmedCount := 1, lastConfirmationTime := 100, now := 10099 }) (fun t =>
    t.tx == [] && t.unconfirmedCount == 1) = true := by decide
/-- V42-7. -/
theorem test_t2Check_due : after (exec .t2Check { running with
    unconfirmedCount := 1, receiveCount := 1, lastConfirmationTime := 100, now := 10100 }) (fun t =>
    t.tx == [[0x68, 0x04, 0x01, 0x00, 0x02, 0x00]] && t.lastConfirmationTime == 10100) = true := by
  decide

/-! ### Control-Function Handler -/

/-- V43-13: the flag set in step 1 enables step 2 of the same iteration. -/
theorem test_rxStartdtAct : after (exec .iterate { State.reset with
    rx := [0x68, 0x04, 0x07, 0, 0, 0], oq := [[0xE1]], now := 25000 }) (fun t =>
    t.tx == [[0x68, 0x04, 0x0B, 0, 0, 0], [0x68, 0x05, 0, 0, 0, 0, 0xE1]] &&
      t.nextIdleTimeoutAt == 45000) = true := by decide
/-- V43-14. -/
theorem test_rxStopdtAct : after (exec .iterate { active with
    rx := [0x68, 0x04, 0x13, 0, 0, 0], oq := [[0xE1]] }) (fun t =>
    t.tx == [[0x68, 0x04, 0x23, 0, 0, 0]] && t.oq == [[0xE1]] && !t.isActive) = true := by
  decide
/-- V42-14: the frame is handled before the timer. -/
theorem test_rxTestfrAct : after (exec .iterate { running with
    rx := [0x68, 0x04, 0x43, 0, 0, 0], outstandingTestProbes := 3, now := 20001 }) (fun t =>
    t.tx == [[0x68, 0x04, 0x83, 0, 0, 0]] && t.nextIdleTimeoutAt == 40001 && t.isRunning) = true := by
  decide
/-- V42-12. -/
theorem test_rxTestfrCon : after (exec .iterate { running with
    rx := [0x68, 0x04, 0x83, 0, 0, 0], outstandingTestProbes := 2, nextIdleTimeoutAt := 60002
    now := 50000 }) (fun t =>
    t.outstandingTestProbes == 0 && t.nextIdleTimeoutAt == 70000 && t.tx == []) = true := by
  decide
/-- V43-9: a received STARTDT_CON. -/
theorem test_rxUnknown : after (exec .iterate { State.reset with
    rx := [0x68, 0x04, 0x0B, 0, 0, 0], now := 700 }) (fun t =>
    !t.isActive && t.tx == [] && t.nextIdleTimeoutAt == 20700) = true := by decide

/-! ### Connection Driver and closing -/

/-- P1 row 7: while inactive the queue is not touched. -/
theorem test_queueSend_inactive : after (exec .queueSend { running with oq := [[0xE2]] }) (fun t =>
    t.oq == [[0xE2]] && t.tx == []) = true := by decide
/-- P1 row 3. -/
theorem test_queueSend : after (exec .queueSend
    { active with oq := [[0xE1]], sendCount := 1, receiveCount := 1 }) (fun t =>
    t.oq == [] && t.tx == [[0x68, 0x05, 0x02, 0x00, 0x02, 0x00, 0xE1]]) = true := by decide
/-- P5: both counters wrap in one iteration. -/
theorem test_iterate_wraps : after (exec .iterate { active with
    sendCount := 32767, receiveCount := 32767, oq := [[0xBB]], answers := [[[0xAA]]]
    rx := [0x68, 0x05, 0x0E, 0x00, 0xFE, 0xFF, 0xAA], now := 100 }) (fun t =>
    t.tx == [[0x68, 0x05, 0xFE, 0xFF, 0x00, 0x00, 0xAA], [0x68, 0x05, 0x00, 0x00, 0x00, 0x00, 0xBB]] &&
      t.sendCount == 1 && t.receiveCount == 0) = true := by decide
/-- V42-10: T3 before T2. -/
theorem test_iterate_order : after (exec .iterate { running with
    unconfirmedCount := 2, receiveCount := 2, lastConfirmationTime := 10500, now := 20500 }) (fun t =>
    t.tx == [[0x68, 0x04, 0x43, 0, 0, 0], [0x68, 0x04, 0x01, 0x00, 0x04, 0x00]] &&
      t.lastConfirmationTime == 20500) = true := by decide
/-- V42-16: each time read is its own. -/
theorem test_step_time_reads : after (step { State.reset with
    rx := [0x68, 0x04, 0x00, 0x00, 0x00, 0x00], now := 100, clock := [0, 1, 1, 1] }) (fun t =>
    t.lastConfirmationTime == 100 && t.nextIdleTimeoutAt == 20101 && t.now == 103) = true := by
  decide
/-- V60-2: the waiting frame is neither read nor answered. -/
theorem test_step_close_request : after (step { running with
    isRunning := false, rx := [0x68, 0x04, 0x43, 0, 0, 0] }) (fun t =>
    t.phase == .closing && t.tx == [] && t.log == [.closing 1 none]) = true := by decide
/-- R102, R203, R153: a byte that is no start byte is dropped, and step 5 runs all the same. -/
theorem test_step_resync : after (step { running with
    rx := [0x69, 0x68], unconfirmedCount := 1, receiveCount := 1, now := 10000 }) (fun t =>
    t.rx == [0x68] && t.log == [.missingStartByte 0x69] &&
      t.tx == [[0x68, 0x04, 0x01, 0x00, 0x02, 0x00]] && t.nextIdleTimeoutAt == 20000) = true := by
  decide
/-- V60-8. -/
theorem test_doClose : after (exec .doClose { closing with rx := [0x68] }) (fun t =>
    t.phase == .closed && t.rx == [] && t.out == [.sockClose, .deregister]) = true := by decide
/-- V60-10. -/
theorem test_close : after (exec .close closing) (fun t => t == closing) = true := by decide
/-- R212. -/
theorem test_notify : after (exec .notify active) (fun t => t == active) = true := by decide

/-! ### Witnesses: the hypotheses of each statement, met together, each clause at the edge of its range -/

theorem witness_SequenceFieldsRoundTrip : (0xFE : Byte).toNat % 2 = 0 ∧ (0x00 : Byte).toNat % 2 = 0 := by
  decide
theorem witness_ReceivedFramesDecodeBack :
    (Instr.rxI ⟨0xFE, bytes 254⟩).isReceived = true ∧ (Instr.rxI ⟨0xFE, bytes 254⟩).wf = true ∧
      (Instr.rxUnknown ⟨0x2B, []⟩).isReceived = true ∧ (Instr.rxUnknown ⟨0x2B, []⟩).wf = true := by
  simp [Instr.isReceived, Instr.wf, RxFrame.wf, classOf, maskMatches]
theorem witness_DecodedBytesEncodeBack : decode [0x68, 0x01, 0x07, 0x55]
    = .ok (.rxStartdtAct ⟨0x07, []⟩, [0x55]) := rfl
theorem witness_TransmittedFramesDecodeBack :
    (Instr.txI (bytes 251) 32767 32767).isTransmitted = true ∧
      (Instr.txI (bytes 251) 32767 32767).wf = true := by simp [Instr.isTransmitted, Instr.wf]
theorem witness_WrittenFramesReadBack_I :
    let s : State := { running with rx := writeIFrame (bytes 251) 32767 32767 ++ [0x68] }
    s.InLoop ∧ (bytes 251).length ≤ 251 ∧ s.rx = writeIFrame (bytes 251) 32767 32767 ++ [0x68] := by
  simp [running, State.reset, State.resetWith, State.InLoop]
theorem witness_WrittenFramesReadBack_S_U :
    State.InLoop { running with rx := writeSFrame 32767 ++ [] } ∧
      State.InLoop { running with rx := [0x68, 0x04, 0x23, 0x00, 0x00, 0x00] ++ [] } ∧
      ((0x23 : Byte), FrameClass.unknown) ∈ [((0x0B : Byte), FrameClass.unknown), (0x23, .unknown),
        (0x83, .testfrCon), (0x43, .testfrAct)] := by decide
theorem witness_ReadFrameCases_empty : running.InLoop ∧ running.rx = [] ∧ running.rxEof = false ∧
    State.InLoop { running with rxEof := true } := by decide
theorem witness_ReadFrameCases_badStart :
    State.InLoop { running with rx := [0x67] } ∧ (0x67 : Byte) ≠ 0x68 ∧
      running.badStartFatal = false := by decide
theorem witness_ReadFrameCases_incomplete :
    State.InLoop { running with rx := 0x68 :: 0xFF :: bytes 254, rxEof := true } ∧
      (bytes 254).length < (0xFF : Byte).toNat ∧
      State.InLoop { running with rx := [0x68] } := by
  simp [running, State.reset, State.resetWith, State.InLoop]
theorem witness_ReadFrameCases_whole :
    State.InLoop { running with rx := 0x68 :: 0xFF :: bytes 255 ++ [0x68] } ∧
      (bytes 255).length = (0xFF : Byte).toNat ∧ ([] : List Byte).length = (0x00 : Byte).toNat := by
  simp [running, State.reset, State.resetWith, State.InLoop]
theorem witness_ResyncDropsOneByte :
    let s : State := { running with rx := [0x69, 0x68] }
    s.InLoop ∧ s.badStartFatal = false ∧ s.rx = 0x69 :: [0x68] ∧ (0x69 : Byte) ≠ 0x68 := by
  decide
theorem witness_BadStartFatalRaises :
    let s : State := { running with rx := [0x69], badStartFatal := true }
    s.InLoop ∧ s.badStartFatal = true ∧ s.rx = 0x69 :: [] ∧ (0x69 : Byte) ≠ 0x68 := by decide
theorem witness_DeliveredFrameStandsInBuffer :
    ∃ t, exec .readFrame { running with rx := [0x68, 0x00] } = .next t ∧ t.delivered = some 2 :=
  ⟨_, rfl, rfl⟩
theorem witness_ReadFrameFollowsParserState :
    let s : State := { running with rx := [0x68], rxEof := true }
    s.InLoop ∧ s.badStartFatal = false ∧ s.rxEof = true ∧ parserState s.rx ≠ .hunt ∧
      State.InLoop { running with rx := [0x68] } ∧ running.rxEof = false := by decide
theorem witness_ClassifyReturnsClass :
    let s : State := { running with fb := [(2, 0x03)] }
    s.InLoop ∧ (2 : Nat) < 3 ∧ (3 : Nat) ≤ 3 ∧ s.fb.read 2 = some 0x03 := by decide
theorem witness_TxIAppendsFrame : running.InLoop ∧ (bytes 251).length ≤ 251 := by
  simp [running, State.reset, State.resetWith, State.InLoop]
theorem witness_FixedWritersAppendFrame : running.InLoop ∧ State.reset.InLoop := by decide
theorem witness_OperandsOutsideRulesStop :
    running.InLoop ∧ running.fb.read 2 = none ∧ running.rx = [] ∧ 251 < (bytes 252).length ∧
      State.InLoop { running with rx := 0x68 :: [] } ∧ State.InLoop { running with iMinSize := 5 } ∧
      5 ≤ (RxFrame.tail ⟨0x00, [0x00, 0x00]⟩).length + 3 ∧
      (RxFrame.tail ⟨0x00, [0x00, 0x00]⟩).length < 3 := by
  simp [running, State.reset, State.resetWith, State.InLoop, Memory.read]
theorem witness_SendIStampsThenAdvances :
    running.InLoop ∧ (bytes 251).length ≤ 251 ∧ 251 < (bytes 252).length := by
  simp [running, State.reset, State.resetWith, State.InLoop]
theorem witness_SendSAcknowledges : running.InLoop := by decide
theorem witness_ForceAckIsStrict :
    let s : State := { running with unconfirmedCount := 9 }
    let u : State := { running with unconfirmedCount := 8 }
    s.InLoop ∧ s.w < s.unconfirmedCount ∧ u.InLoop ∧ u.unconfirmedCount ≤ u.w := by decide
theorem witness_ReceivedIFrameCountsAndDispatches :
    let f : RxFrame := ⟨0xFE, [0xFF, 0xFE, 0xFF]⟩
    let s : State := { active with answers := [[[0xD1]]] }
    running.InLoop ∧ running.isActive = false ∧ s.InLoop ∧ s.isActive = true ∧
      s.answers = [[0xD1]] :: [] ∧ f.tail = 0xFF :: 0xFE :: 0xFF :: [] ∧
      RxFrame.tail ⟨0x00, [0x00, 0x00]⟩ = [0x00, 0x00] ∧ [0x00, 0x00].length + 3 < s.iMinSize ∧
      s.iMinSize ≤ f.tail.length + 3 := by decide
theorem witness_ReceivedSFrameChangesNoRegister :
    running.InLoop ∧ RxFrame.tail ⟨0x01, [0x00, 0x12, 0x00]⟩ = 0x00 :: 0x12 :: 0x00 :: [] ∧
      (RxFrame.tail ⟨0x01, [0x00, 0x12]⟩).length < 3 := by decide
theorem witness_PseudoOperationsSendOneIFrame : running.InLoop := by decide
theorem witness_CountersCountFrames :
    let s : State := { active with sendCount := 32767, receiveCount := 32767 }
    s.InLoop ∧ (∀ f ∈ [RxFrame.mk 0x00 [0x00, 0x00, 0x00]], 3 ≤ f.tail.length ∧
        s.iMinSize ≤ f.tail.length + 3) ∧
      ∀ a ∈ [bytes 251, []], a.length ≤ 251 := by
  simp [active, running, State.reset, State.resetWith, Params.standard, State.InLoop]
theorem witness_PeerNumbersReachOnlyTheLog :
    active.InLoop ∧ RxFrame.tail ⟨0x00, [0x00, 0x00, 0x00, 0xAA]⟩ = 0x00 :: 0x00 :: 0x00 :: [0xAA] ∧
      RxFrame.tail ⟨0xC8, [0x00, 0x90, 0x01, 0xAA]⟩ = 0x00 :: 0x90 :: 0x01 :: [0xAA] := by
  decide
theorem witness_T3ResetMovesDeadline : running.InLoop := by decide
theorem witness_T3CheckProbesOrGivesVerdict :
    let a : State := { running with now := 20000 }
    let b : State := { running with now := 20000, clock := [1], outstandingTestProbes := 2 }
    let c : State := { running with now := 20001, outstandingTestProbes := 3 }
    (a.InLoop ∧ a.timeRead ≤ a.nextIdleTimeoutAt) ∧
      (b.InLoop ∧ b.nextIdleTimeoutAt < b.timeRead ∧ b.outstandingTestProbes ≤ b.probeLimit) ∧
      (c.InLoop ∧ c.nextIdleTimeoutAt < c.timeRead ∧
        c.probeLimit < c.outstandingTestProbes) := by decide
theorem witness_T2CheckAcknowledgesInTime :
    let a : State := { running with unconfirmedCount := 1, lastConfirmationTime := 100, now := 10099 }
    let b : State := { running with unconfirmedCount := 1, lastConfirmationTime := 100, now := 10100 }
    (running.InLoop ∧ running.unconfirmedCount = 0) ∧
      (a.InLoop ∧ a.lastConfirmationTime ≤ a.timeRead ∧
        a.timeRead - a.lastConfirmationTime < a.t2 * a.tps) ∧
      (b.InLoop ∧ 0 < b.unconfirmedCount ∧ b.lastConfirmationTime ≤ b.timeRead ∧
        b.t2 * b.tps ≤ b.timeRead - b.lastConfirmationTime) := by decide
theorem witness_TimeGoingBackStopsT2 :
    let s : State := { running with unconfirmedCount := 1, lastConfirmationTime := 1 }
    s.InLoop ∧ 0 < s.unconfirmedCount ∧ s.timeRead < s.lastConfirmationTime := by decide
theorem witness_SilentPeerIsProbedThriceThenClosed :
    let ms : List Move := [.advance 20001, .worker, .advance 20001, .worker, .advance 20001, .worker,
      .advance 20001, .worker]
    let s : State := { running with sched := ms }
    s.phase = .running ∧ s.isRunning = true ∧ s.rx = [] ∧ s.rxEof = false ∧ s.unconfirmedCount = 0 ∧
      s.outstandingTestProbes = 0 ∧ s.probeLimit = 2 ∧ (s.isActive = false ∨ s.oq = []) ∧ s.clock = [] ∧
      s.nextIdleTimeoutAt < s.now + 20001 ∧ s.t3 * s.tps < 20001 ∧ s.sched = ms := by decide
theorem witness_StartAndStopConfirmAndSwitch : running.InLoop ∧ active.InLoop := by decide
theorem witness_TestFramesAnsweredOrCleared : running.InLoop := by decide
theorem witness_UnknownOctetsAreOnlyLogged : running.InLoop := by decide
theorem witness_OnlyStartAndStopSwitchTheMode :
    (Instr.rxStartdtAct ⟨0x07, []⟩ ≠ .iterate ∧
      ∃ t, exec (.rxStartdtAct ⟨0x07, []⟩) running = .next t) ∧
    (∃ t, step { running with rx := [0x68, 0x01, 0x07] } = .next t ∧ t.isActive ≠ running.isActive) ∧
    ∃ t, step { active with rx := [0x68, 0x01, 0x13] } = .next t ∧ t.isActive ≠ active.isActive :=
  ⟨⟨nofun, _, rfl⟩, ⟨_, rfl, by decide⟩, _, rfl, by decide⟩
theorem witness_QueueSendTakesAtMostOne :
    let s : State := { active with oq := [bytes 251] }
    let u : State := { active with oq := [bytes 252, []] }
    (running.InLoop ∧ running.isActive = false) ∧ (active.InLoop ∧ active.oq = []) ∧
      (s.InLoop ∧ s.isActive = true ∧ s.oq = bytes 251 :: [] ∧ (bytes 251).length ≤ 251) ∧
      (u.InLoop ∧ u.isActive = true ∧ u.oq = bytes 252 :: [[]] ∧ 251 < (bytes 252).length) := by
  simp [active, running, State.reset, State.resetWith, Params.standard, State.InLoop]
theorem witness_CloseRequestRaisesAtStepZero :
    let s : State := { State.reset with isRunning := false }
    let u : State := { s with sched := [.worker, .notify] }
    s.InLoop ∧ s.isRunning = false ∧ s.sched = [] ∧ u.sched = .worker :: [.notify] := by decide
theorem witness_StepRunsDecodedInstruction :
    let s : State := { running with rx := [0x68, 0x01, 0x07, 0x68], sched := [.worker, .close] }
    s.InLoop ∧ s.isRunning = true ∧ (s.sched = [] ∨ ∃ ms, s.sched = .worker :: ms) ∧
      decode s.rx = .ok (.rxStartdtAct ⟨0x07, []⟩, [0x68]) :=
  ⟨.inr rfl, rfl, .inr ⟨_, rfl⟩, rfl⟩
theorem witness_StepWithoutFrameRunsTheRest :
    let s : State := { running with rx := [0x68, 0x04, 0x07] }
    let u : State := { running with rx := [0x69], rxEof := true }
    (s.InLoop ∧ s.isRunning = true ∧ s.rxEof = false ∧ s.sched = [] ∧ parserState s.rx ≠ .hunt) ∧
      (u.InLoop ∧ u.isRunning = true ∧ u.sched = [] ∧ u.rx = 0x69 :: [] ∧ (0x69 : Byte) ≠ 0x68 ∧
        u.badStartFatal = false) := by
  decide
theorem witness_IterateIsTotal :
    let s : State := { running with unconfirmedCount := 1, lastConfirmationTime := 7, now := 7 }
    s.InLoop ∧ s.lastConfirmationTime ≤ s.now ∧ 6 ≤ s.iMinSize := by decide
theorem witness_IdleIterationSendsNothing :
    let s : State := { running with oq := [[0xE1]], now := 19998, clock := [1, 1] }
    s.InLoop ∧ s.isRunning = true ∧ s.rx = [] ∧ s.rxEof = false ∧ (s.isActive = false ∨ s.oq = []) ∧
      s.unconfirmedCount = 0 ∧ s.timeRead + s.clock.tail.headD 0 ≤ s.nextIdleTimeoutAt := by
  decide
theorem witness_RaiseInStepOneEndsIteration :
    let a : State := { active with rxEof := true }
    let b : State := { active with rx := 0x68 :: 0x01 :: [], rxEof := true }
    let c : State := { active with rx := 0x68 :: 0x00 :: [0x68] }
    let d : State := { active with rx := 0x68 :: 0x03 :: 0x00 :: [0x00, 0x00] ++ [0x68] }
    (a.InLoop ∧ a.isRunning = true ∧ a.rx = [] ∧ a.rxEof = true) ∧
      (b.InLoop ∧ b.isRunning = true ∧ b.rxEof = true ∧ ([] : List Byte).length < (0x01 : Byte).toNat) ∧
      (c.InLoop ∧ c.isRunning = true ∧ c.rx = 0x68 :: 0x00 :: [0x68]) ∧
      (d.InLoop ∧ d.isRunning = true ∧ (0x00 : Byte).getLsbD 0 = false ∧
        [(0x00 : Byte), 0x00].length + 1 = (0x03 : Byte).toNat ∧ (0x03 : Byte).toNat + 2 < d.iMinSize) := by
  decide
theorem witness_IterationTransmitsInStepOrder :
    ∃ t, exec .iterate { active with oq := [[0xE1]] } = .next t := ⟨_, rfl⟩
theorem witness_DoCloseClosesAndDeregisters : closing.phase = .closing ∧ closing.sched = [] ∧
    State.sched { closing with sched := [.worker] } = .worker :: [] ∧ closed.phase ≠ .closing := by
  decide
theorem witness_EnvironmentMovesTouchPortsOnly :
    (State.sched { running with sched := [.rx [0x68]] } = .rx [0x68] :: [] ∧ running.phase ≠ .closed ∧
      running.rxEof = false) ∧ State.rxEof { running with rxEof := true } = true ∧
      State.sched { closed with sched := [.rx [0x68]] } = .rx [0x68] :: [] ∧ closed.phase = .closed ∧
      State.sched { closed with sched := [.advance 0] } = .advance 0 :: [] := by decide
theorem witness_ResetMeetsInvariant :
    Params.legal { Params.standard with w := 32767, tps := 1, oq := [[0xE1]] } := by decide
theorem witness_StepKeepsInvariant : State.reset.Inv ∧ ∃ t, step State.reset = .next t := by
  refine ⟨?_, _, rfl⟩
  constructor <;> simp [State.reset, State.resetWith, Params.standard, countIFrames, countRxI]
theorem witness_PhaseMovesOnlyForward :
    (∃ t, step State.reset = .next t ∧ t.phase ≠ State.reset.phase) ∧
      (∃ t, step { running with isRunning := false } = .next t ∧ t.phase ≠ running.phase) ∧
      ∃ t, step closing = .next t ∧ t.phase ≠ closing.phase :=
  ⟨⟨_, rfl, by decide⟩, ⟨_, rfl, by decide⟩, _, rfl, by decide⟩
theorem witness_NothingRunsAfterClosing :
    closing.phase = .closing ∧ closed.phase = .closed ∧ closed.sched = [] ∧
      State.sched { closed with sched := [.worker, .close] } = .worker :: [.close] ∧
      Instr.iterate ≠ .doClose ∧ Instr.iterate ≠ .close ∧ Instr.iterate ≠ .notify := by decide
theorem witness_ClosingKeepsRegisters :
    (closing.phase = .closing ∧ ∃ t, step closing = .next t) ∧
      closed.phase = .closed ∧ ∃ t, step { closed with sched := [.advance 1] } = .next t :=
  ⟨⟨rfl, _, rfl⟩, rfl, _, rfl⟩
theorem witness_ParametersAreFrozen :
    (∃ t, step running = .next t) ∧ ∃ t i, exec i running = .next t :=
  ⟨⟨_, rfl⟩, _, .sendS, rfl⟩
theorem witness_StepAppendsOnlyCountedFrames :
    ∃ t, step { active with oq := [[0xE1]] } = .next t := ⟨_, rfl⟩
theorem witness_OneFrameAndOneAsduPerIteration :
    ∃ t, exec .iterate { active with rx := [0x68, 0x01, 0x07, 0x68], oq := [[0xE1]] } = .next t :=
  ⟨_, rfl⟩
theorem witness_OnlyTheMatrixWritesState :
    Instr.doClose ≠ .iterate ∧ ∃ t, exec .doClose { closing with rx := [0x68] } = .next t ∧
      t.phase ≠ closing.phase ∧ t.rx ≠ [0x68] ∧ t.rxEof ≠ closing.rxEof ∧ t.out ≠ closing.out :=
  ⟨nofun, _, rfl, by decide⟩
theorem witness_BufferWrittenOnlyByTheReader :
    (∃ t, exec .sendS { running with fb := [(2, 0x07)] } = .next t) ∧
      (∃ t, exec .iterate { running with fb := [(2, 0x07)] } = .next t) ∧ running.isRunning = true :=
  ⟨⟨_, rfl⟩, ⟨_, rfl⟩, rfl⟩

end Sys2Proof.Tests
end

/-! # Proofs: the state and the whole machine (spec/10_state.md)

Reset, the frozen parameters, the access matrix, FB's window, the frames on TX, the moves of `phase`,
and from them the invariant of every step. -/

namespace Sys2Proof.Machine

/-! ### Reset (R41) -/

/-- Settles O46, field by field of `State.resetWith`. -/
theorem resetGivesTheStatedValues : Obligations.ResetGivesTheStatedValues := by
  intro p
  simp [State.resetWith]

/-- Settles O47: the bounds are those of a legal configuration, the counters and both logs are
empty. -/
theorem resetMeetsInvariant : Obligations.ResetMeetsInvariant := by
  rintro p ⟨hw, htps, hmin⟩
  constructor <;> simp [State.resetWith, countIFrames, countRxI, hw, htps, hmin]

/-! ### A step is the worker's, or touches the environment's fields only (R213) -/

/-- The state in which the move of a step runs: the move is taken off the schedule. -/
def State.popMove (s : State) : State := { s with sched := s.sched.tail }

/-- A step is the worker's `ITERATE` or `DO_CLOSE`, or a move of the environment: it writes RX, its
end flag, the external queue, `isRunning` and the time, and no other field. -/
theorem step_worker_or_environment {s t : State} (h : step s = .next t) :
    (s.InLoop ∧ execIterate s.popMove = .next t) ∨
      (s.phase = .closing ∧ execDoClose s.popMove = .next t) ∨
      t = { s.popMove with
        rx := t.rx
        rxEof := t.rxEof
        oq := t.oq
        isRunning := t.isRunning
        now := t.now } := by
  rcases step_next h with h | h | ⟨_, _, _, rfl⟩ | ⟨_, rfl⟩ | rfl | ⟨_, rfl⟩ | rfl | rfl | ⟨_, rfl⟩
  · exact .inl h
  · exact .inr (.inl h)
  all_goals exact .inr (.inr rfl)

/-- What `DO_CLOSE` answers (R243). -/
theorem execDoClose_next {s t : State} (h : execDoClose s = .next t) :
    s.phase = .closing ∧ t = { s with
      rxEof := true, rx := [], out := s.out ++ [.sockClose, .deregister], phase := .closed } :=
  exec_next (i := .doClose) h

/-! ### Parameters and FB outside an iteration (R30, R273, R43) -/

/-- `t` has the parameters of `s`. -/
def SameParams (s t : State) : Prop :=
  t.t2 = s.t2 ∧ t.t3 = s.t3 ∧ t.w = s.w ∧ t.tps = s.tps ∧
    t.iMinSize = s.iMinSize ∧ t.probeLimit = s.probeLimit ∧ t.badStartFatal = s.badStartFatal

theorem SameParams.trans {s t u : State} (h : SameParams s t) (h' : SameParams t u) :
    SameParams s u := by
  unfold SameParams at *
  simp_all

/-- What no operation but `ITERATE` writes, the parameters, and what only the reader of frames
writes, FB. -/
theorem exec_frame {i : Instr} {s t : State} (h : exec i s = .next t) (hi : i ≠ .iterate) :
    SameParams s t ∧ (i ≠ .readFrame → i ≠ .resync → t.fb = s.fb) := by
  have he := exec_next h
  unfold SameParams
  cases i with
  | iterate => exact absurd rfl hi
  | rxI f => obtain ⟨_, rfl⟩ | ⟨_, _, _, _, _, _, rfl⟩ := he <;> simp
  | readFrame =>
    obtain ⟨_, _, rfl⟩ | ⟨_, _, rfl⟩ | ⟨_, _, rfl⟩ | ⟨_, _, _, _, rfl⟩ | ⟨_, _, _, _, rfl⟩ := he <;>
      simp
  | resync => obtain ⟨_, _, _, _, rfl⟩ := he; simp
  | classify n => obtain ⟨_, rfl⟩ | ⟨_, _, _, rfl⟩ := he <;> simp
  | txI asdu ns nr => obtain ⟨_, rfl⟩ := he; simp
  | forceAck => obtain ⟨_, rfl⟩ | ⟨_, rfl⟩ := he <;> simp
  | t3Check => obtain ⟨_, _, rfl⟩ | ⟨_, _, rfl⟩ | ⟨_, rfl⟩ := he <;> simp
  | t2Check => obtain ⟨_, _, _, rfl⟩ | ⟨_, rfl⟩ := he <;> simp
  | queueSend => obtain ⟨_, rfl⟩ | ⟨_, _, _, _, rfl⟩ := he <;> simp
  | doClose => obtain ⟨_, rfl⟩ := he; simp
  | _ => obtain rfl := he; simp

theorem exec_sameParams {i : Instr} {s t : State} (h : exec i s = .next t) (hi : i ≠ .iterate) :
    SameParams s t := (exec_frame h hi).1

theorem exec_fb {i : Instr} {s t : State} (h : exec i s = .next t) (h1 : i ≠ .readFrame)
    (h2 : i ≠ .resync) (h3 : i ≠ .iterate) : t.fb = s.fb := (exec_frame h h3).2 h1 h2

theorem ne_iterate_of_inIteration {i : Instr} (h : inIteration i = true) : i ≠ .iterate := by
  rintro rfl
  cases h

theorem execIterate_sameParams {s t : State} (h : execIterate s = .next t) : SameParams s t := by
  refine execIterate_keeps (SameParams s) ?ops ?window ?enter ?close h
  case ops =>
    exact fun i u v hi hu huv => hu.trans (exec_sameParams huv (ne_iterate_of_inIteration hi))
  case window => exact fun u hu => hu
  case enter => intro; simp [SameParams]
  case close => intro; simp [SameParams]

theorem step_sameParams {s t : State} (h : step s = .next t) : SameParams s t := by
  have hpop : SameParams s s.popMove := by simp [SameParams, State.popMove]
  obtain ⟨_, h⟩ | ⟨_, h⟩ | h := step_worker_or_environment h
  · exact hpop.trans (execIterate_sameParams h)
  · exact hpop.trans (exec_sameParams (i := .doClose) h nofun)
  · rw [h]
    exact hpop

/-- Settles O52: each operation leaves the parameters, hence `ITERATE` and the step do. -/
theorem parametersAreFrozen : Obligations.ParametersAreFrozen := by
  rintro s t (h | ⟨i, h⟩)
  · exact step_sameParams h
  · by_cases hi : i = .iterate
    · subst hi
      exact execIterate_sameParams h
    · exact exec_sameParams h hi

/-! ### The access matrix (R43) -/

/-- Settles O55: one line per instruction that can act in more than one way, and one for all the
others; the fields that the instruction's shared operation leaves are equal by its own lemmas. -/
theorem onlyTheMatrixWritesState : Obligations.OnlyTheMatrixWritesState := by
  intro i s t h hi
  have he := exec_next h
  cases i with
  | iterate => exact absurd rfl hi
  | rxI f => obtain ⟨_, rfl⟩ | ⟨_, _, _, _, _, _, rfl⟩ := he <;> simp
  | readFrame =>
    obtain ⟨_, _, rfl⟩ | ⟨_, _, rfl⟩ | ⟨_, _, rfl⟩ | ⟨_, _, _, _, rfl⟩ | ⟨_, _, _, _, rfl⟩ := he <;>
      simp
  | resync => obtain ⟨_, _, _, _, rfl⟩ := he; simp
  | classify n => obtain ⟨_, rfl⟩ | ⟨_, _, _, rfl⟩ := he <;> simp
  | txI asdu ns nr => obtain ⟨_, rfl⟩ := he; simp
  | forceAck => obtain ⟨_, rfl⟩ | ⟨_, rfl⟩ := he <;> simp
  | t3Check => obtain ⟨_, _, rfl⟩ | ⟨_, _, rfl⟩ | ⟨_, rfl⟩ := he <;> simp
  | t2Check => obtain ⟨_, _, _, rfl⟩ | ⟨_, rfl⟩ := he <;> simp
  | queueSend => obtain ⟨_, rfl⟩ | ⟨_, _, _, _, rfl⟩ := he <;> simp
  | doClose => obtain ⟨_, rfl⟩ := he; simp
  | _ => obtain rfl := he; simp

/-! ### FB's window (R31, R43) -/

/-- FB has no content and nothing is delivered or classified: the window is closed (LOG 8). -/
def State.WindowClosed (s : State) : Prop := s.fb = [] ∧ s.delivered = none ∧ s.cls = none

theorem State.windowClosed_closeWindow (s : State) : s.closeWindow.WindowClosed := ⟨rfl, rfl, rfl⟩

theorem execQueueSend_windowClosed {s t : State} (h : execQueueSend s = .next t)
    (hs : s.WindowClosed) : t.WindowClosed := by
  obtain ⟨_, ⟨_, rfl⟩ | ⟨_, _, _, _, rfl⟩⟩ := execQueueSend_next h
  · exact hs
  · simpa [State.WindowClosed] using hs

theorem execForceAck_windowClosed {s t : State} (h : execForceAck s = .next t)
    (hs : s.WindowClosed) : t.WindowClosed := by
  obtain ⟨_, ⟨_, rfl⟩ | ⟨_, rfl⟩⟩ := execForceAck_next h
  · simpa [State.WindowClosed] using hs
  · exact hs

theorem execT3Check_windowClosed {s t : State} (h : execT3Check s = .next t)
    (hs : s.WindowClosed) : t.WindowClosed := by
  obtain ⟨_, ⟨_, _, rfl⟩ | ⟨_, _, rfl⟩ | ⟨_, rfl⟩⟩ := execT3Check_next h <;>
    simpa [State.WindowClosed] using hs

theorem execT2Check_windowClosed {s t : State} (h : execT2Check s = .next t)
    (hs : s.WindowClosed) : t.WindowClosed := by
  obtain ⟨_, ⟨_, _, _, rfl⟩ | ⟨_, rfl⟩⟩ := execT2Check_next h <;>
    simpa [State.WindowClosed] using hs

/-- Steps 2 to 5 leave FB's window closed. -/
theorem afterRead_windowClosed {s t : State} (h : afterRead s = .next t) (hs : s.WindowClosed) :
    t.WindowClosed := by
  obtain ⟨q, f, c, hq, hf, hc, hend⟩ := afterRead_next h
  have hwc : c.WindowClosed := execT3Check_windowClosed hc
    (execForceAck_windowClosed hf (execQueueSend_windowClosed hq hs))
  obtain ⟨_, rfl⟩ | ⟨_, ht⟩ := hend
  · exact hwc
  · exact execT2Check_windowClosed ht hwc

/-- Step 1 ends FB's window, raise or not (LOG 26). -/
theorem readAndRoute_windowClosed {s t : State} (h : readAndRoute s = .next t) :
    t.WindowClosed := by
  obtain ⟨u, _, rfl⟩ := mapNext_next h
  exact u.windowClosed_closeWindow

/-- After an iteration that entered the loop the window is closed. -/
theorem execIterate_windowClosed {s t : State} (h : execIterate s = .next t)
    (hr : s.isRunning = true) : t.WindowClosed := by
  obtain ⟨_, ⟨hn, _⟩ | ⟨_, r, hread, ⟨_, rfl⟩ | ⟨_, hafter⟩⟩⟩ := execIterate_next h
  · simp [hr] at hn
  · exact readAndRoute_windowClosed hread
  · exact afterRead_windowClosed hafter (readAndRoute_windowClosed hread)

/-- A closed window stays closed over an iteration. -/
theorem execIterate_keeps_windowClosed {s t : State} (h : execIterate s = .next t)
    (hs : s.WindowClosed) : t.WindowClosed := by
  obtain ⟨_, ⟨_, rfl⟩ | ⟨hr, _⟩⟩ := execIterate_next h
  · exact hs
  · exact execIterate_windowClosed h hr

theorem Memory.wf_nil : Memory.wf [] := ⟨.nil, nofun⟩

/-- Every operation keeps FB's canonical form: the reader writes a whole frame into an empty buffer,
the others empty it or leave it. -/
theorem exec_wf_fb {i : Instr} {s t : State} (h : exec i s = .next t) (hs : s.fb.wf) :
    t.fb.wf := by
  cases i with
  | readFrame =>
    obtain ⟨_, _, rfl⟩ | ⟨_, _, rfl⟩ | ⟨_, _, rfl⟩ | ⟨_, _, _, _, rfl⟩ | ⟨body, _, _, hb, rfl⟩ :=
      exec_next h
    · exact Memory.wf_nil
    · exact Memory.wf_nil
    · exact Memory.wf_nil
    · simpa using Memory.wf_nil
    · exact Memory.wf_frame _ (by simp [frameOf]; omega)
  | resync =>
    obtain ⟨_, _, _, _, rfl⟩ := exec_next h
    simpa using Memory.wf_nil
  | iterate =>
    obtain ⟨_, ⟨_, rfl⟩ | ⟨hr, _⟩⟩ := execIterate_next h
    · exact hs
    · obtain ⟨hfb, _, _⟩ := execIterate_windowClosed h hr
      rw [hfb]
      exact Memory.wf_nil
  | _ => rwa [exec_fb h nofun nofun nofun]

/-- Settles O56: the form, the bytes outside an iteration, and the window that `ITERATE` has closed,
each by its lemma. -/
theorem bufferWrittenOnlyByTheReader : Obligations.BufferWrittenOnlyByTheReader := by
  intro i s t h
  refine ⟨exec_wf_fb h, fun h1 h2 h3 a => by rw [exec_fb h h1 h2 h3], ?_⟩
  rintro rfl hr a
  obtain ⟨hfb, _, _⟩ := execIterate_windowClosed h hr
  rw [hfb]
  rfl

/-! ### Frames on TX (R33, R35, R113) -/

/-- From `s` to `t` TX has gained frames of the six forms at its tail, and `sendCount` has advanced by
the number of I-frames among them. -/
def CountedAppend (s t : State) : Prop :=
  ∃ new : List Frame, t.tx = s.tx ++ new ∧ (∀ f ∈ new, Transmittable f) ∧
    t.sendCount.toNat = (s.sendCount.toNat + countIFrames new) % 32768

theorem CountedAppend.of_eq {s t : State} (htx : t.tx = s.tx) (hc : t.sendCount = s.sendCount) :
    CountedAppend s t :=
  ⟨[], by simp [htx], nofun, by simp [hc, countIFrames, Nat.mod_eq_of_lt s.sendCount.isLt]⟩

theorem CountedAppend.trans {s t u : State} (h : CountedAppend s t) (h' : CountedAppend t u) :
    CountedAppend s u := by
  obtain ⟨xs, htx, hxs, hc⟩ := h
  obtain ⟨ys, htx', hys, hc'⟩ := h'
  refine ⟨xs ++ ys, by simp [htx, htx'], ?_, ?_⟩
  · exact fun f hf => (List.mem_append.mp hf).elim (hxs f) (hys f)
  · rw [hc', hc, countIFrames_append]
    omega

/-- One frame that is no I-frame leaves `sendCount`. -/
theorem CountedAppend.of_supervisory {s t : State} {f : Frame} (htx : t.tx = s.tx ++ [f])
    (hc : t.sendCount = s.sendCount) (hf : IsConfirmation f ∨ IsProbe f ∨ IsSFrame f) :
    CountedAppend s t := by
  have hi : isIFrame f = false := by
    obtain hf | hf | hf := hf
    · exact isIFrame_of_IsConfirmation hf
    · exact isIFrame_of_IsProbe hf
    · exact isIFrame_of_IsSFrame hf
  have ht : Transmittable f := by
    unfold Transmittable
    tauto
  exact ⟨[f], htx, by simpa using ht,
    by simp [hc, countIFrames, hi, Nat.mod_eq_of_lt s.sendCount.isLt]⟩

/-- I-frames of this engine, counted one by one. -/
theorem CountedAppend.of_iFrames {s t : State} {fs : List Frame} (htx : t.tx = s.tx ++ fs)
    (hfs : ∀ f ∈ fs, IsIFrame f)
    (hc : t.sendCount.toNat = (s.sendCount.toNat + fs.length) % 32768) : CountedAppend s t :=
  ⟨fs, htx, fun f hf => .inr (.inr (.inr (hfs f hf))), by rw [hc, countIFrames_of_all hfs]⟩

theorem State.sendS_countedAppend (s : State) : CountedAppend s s.sendS :=
  .of_supervisory s.sendS_tx s.sendS_sendCount (.inr (.inr (isSFrame_writeSFrame _)))

theorem State.sendI_countedAppend (s : State) (a : Asdu) : CountedAppend s (s.sendI a) := by
  by_cases ha : a.length ≤ 251
  · rw [State.sendI_fits s ha]
    exact .of_iFrames rfl (by simpa using isIFrame_writeIFrame _ _ ha) (toNat_add_one _)
  · rw [State.sendI_overlong s (by omega)]
    exact .of_eq rfl rfl

theorem State.dispatchAsdu_countedAppend (s : State) (a : Asdu) :
    CountedAppend s (s.dispatchAsdu a) := by
  cases ha : s.isActive with
  | false =>
    rw [State.dispatchAsdu_inactive s a ha]
    exact .of_eq rfl rfl
  | true =>
    exact .of_iFrames (congrArg State.tx (State.dispatchAsdu_active s a ha))
      (isIFrame_responseFrames _ _ _) (State.dispatchAsdu_sendCount s a ha)

/-- Every operation of an iteration transmits only frames of R113 and counts its I-frames. -/
theorem exec_countedAppend {i : Instr} {s t : State} (hi : inIteration i = true)
    (h : exec i s = .next t) : CountedAppend s t := by
  have he := exec_next h
  cases i with
  | rxI f =>
    obtain ⟨_, rfl⟩ | ⟨_, _, _, _, _, _, rfl⟩ := he
    · exact .of_eq (by simp) (by simp)
    · exact CountedAppend.trans (.of_eq (by simp) (by simp)) (State.dispatchAsdu_countedAppend _ _)
  | rxStartdtAct f =>
    obtain rfl := he
    exact .of_supervisory rfl rfl (.inl (.inl rfl))
  | rxStopdtAct f =>
    obtain rfl := he
    exact .of_supervisory rfl rfl (.inl (.inr (.inl rfl)))
  | rxTestfrAct f =>
    obtain rfl := he
    exact .of_supervisory rfl rfl (.inl (.inr (.inr rfl)))
  | rxTestfrCon f | rxS f | rxUnknown f | t3Reset =>
    obtain rfl := he
    exact .of_eq (by simp) (by simp)
  | readFrame =>
    obtain ⟨_, _, rfl⟩ | ⟨_, _, rfl⟩ | ⟨_, _, rfl⟩ | ⟨_, _, _, _, rfl⟩ | ⟨_, _, _, _, rfl⟩ := he <;>
      exact .of_eq (by simp) (by simp)
  | classify n =>
    obtain ⟨_, rfl⟩ | ⟨_, _, _, rfl⟩ := he <;> exact .of_eq (by simp) (by simp)
  | queueSend =>
    obtain ⟨_, rfl⟩ | ⟨_, a, q, _, rfl⟩ := he
    · exact .of_eq rfl rfl
    · exact State.sendI_countedAppend { s with oq := q } a
  | forceAck =>
    obtain ⟨_, rfl⟩ | ⟨_, rfl⟩ := he
    · exact s.sendS_countedAppend
    · exact .of_eq rfl rfl
  | t3Check =>
    obtain ⟨_, _, rfl⟩ | ⟨_, _, rfl⟩ | ⟨_, rfl⟩ := he
    · exact .of_eq (by simp) (by simp)
    · exact .of_supervisory rfl rfl (.inr (.inl rfl))
    · exact .of_eq (by simp) (by simp)
  | t2Check =>
    obtain ⟨_, _, _, rfl⟩ | ⟨_, rfl⟩ := he
    · exact CountedAppend.trans (.of_eq (by simp) (by simp)) s.sample.sendS_countedAppend
    · exact .of_eq (by simp) (by simp)
  | _ => cases hi

theorem execIterate_countedAppend {s t : State} (h : execIterate s = .next t) :
    CountedAppend s t := by
  refine execIterate_keeps (CountedAppend s) ?ops ?window ?enter ?close h
  case ops => exact fun i u v hi hu huv => hu.trans (exec_countedAppend hi huv)
  case window => exact fun u hu => hu
  case enter => exact fun _ => .of_eq (by simp) (by simp)
  case close => exact fun _ => .of_eq (by simp) (by simp)

/-- Settles O53: ITERATE appends counted frames, no other step writes TX or `sendCount`. -/
theorem stepAppendsOnlyCountedFrames : Obligations.StepAppendsOnlyCountedFrames := by
  intro s t h
  have hpop : CountedAppend s s.popMove := .of_eq rfl rfl
  obtain ⟨_, h⟩ | ⟨_, h⟩ | h := step_worker_or_environment h
  · exact hpop.trans (execIterate_countedAppend h)
  · obtain ⟨_, rfl⟩ := execDoClose_next h
    exact CountedAppend.of_eq rfl rfl
  · rw [h]
    exact CountedAppend.of_eq rfl rfl

/-! ### The moves of `phase` (R29, R242) -/

theorem Cause.code_range (c : Cause) : 1 ≤ c.code ∧ c.code ≤ 5 := by
  cases c <;> simp [Cause.code]

/-- The responses of a dispatch add to the log, but no received I-frame (R130, R191). -/
theorem State.dispatchAsdu_log (s : State) (a : Asdu) :
    ∃ l, (s.dispatchAsdu a).log = s.log ++ l ∧ countRxI l = 0 := by
  cases ha : s.isActive with
  | false => exact ⟨[], by simp [State.dispatchAsdu_inactive s a ha], rfl⟩
  | true =>
    exact ⟨_, congrArg State.log (State.dispatchAsdu_active s a ha), countRxI_responseLog _⟩

theorem State.sendI_log (s : State) (a : Asdu) :
    ∃ l, (s.sendI a).log = s.log ++ l ∧ countRxI l = 0 := by
  by_cases ha : a.length ≤ 251
  · exact ⟨[], by simp [State.sendI_fits s ha], rfl⟩
  · exact ⟨[.asduTooLong], by simp [State.sendI_overlong s (by omega : 251 < a.length)], rfl⟩

/-- Trap entry has been taken since `s`: the closing event is the last of the log (R242). -/
def Raised (s t : State) : Prop :=
  t.phase = .closing ∧ t.isRunning = false ∧
    ∃ (l : List LogEvent) (code : Nat) (info : Option Nat),
      1 ≤ code ∧ code ≤ 5 ∧ t.log = s.log ++ l ++ [.closing code info]

theorem raised_trapEntry {s u : State} (c : Cause) (h : u.log = s.log) :
    Raised s (u.trapEntry c) :=
  ⟨rfl, rfl, [], c.code, c.info, c.code_range.1, c.code_range.2, by simp [h]⟩

theorem Raised.of_log_extends {s t u : State} (h : s.log <+: t.log) (h' : Raised t u) :
    Raised s u := by
  obtain ⟨l, hl⟩ := h
  obtain ⟨hp, hr, l', code, info, h1, h5, hlog⟩ := h'
  exact ⟨hp, hr, l ++ l', code, info, h1, h5, by simp [hlog, ← hl]⟩

/-- An operation of an iteration leaves `phase` and adds to the log, or raises. -/
theorem exec_stays_or_raises {i : Instr} {s t : State} (hi : inIteration i = true)
    (h : exec i s = .next t) : (t.phase = s.phase ∧ s.log <+: t.log) ∨ Raised s t := by
  have he := exec_next h
  cases i with
  | rxI f =>
    obtain ⟨_, rfl⟩ | ⟨_, c2, c3, c4, asdu, _, rfl⟩ := he
    · exact .inr (raised_trapEntry _ rfl)
    · obtain ⟨l, hl, _⟩ :=
        ((s.logEvent (.rxI (decSeq f.c1 c2) (decSeq c3 c4))).countI).dispatchAsdu_log asdu
      exact .inl ⟨by simp, by simp [hl]⟩
  | readFrame =>
    obtain ⟨_, _, rfl⟩ | ⟨_, _, rfl⟩ | ⟨_, _, rfl⟩ | ⟨b, rest, _, _, rfl⟩ | ⟨_, _, _, _, rfl⟩ := he
    · exact .inr (raised_trapEntry _ rfl)
    · exact .inr (raised_trapEntry _ rfl)
    · exact .inl (by simp)
    · obtain ⟨_, hd⟩ | ⟨_, hd⟩ := s.closeWindow.dropByte_cases b rest
      · exact .inr (hd ▸ raised_trapEntry _ rfl)
      · exact .inl (by simp [hd])
    · exact .inl (by simp)
  | classify n =>
    obtain ⟨_, rfl⟩ | ⟨_, _, _, rfl⟩ := he
    · exact .inr (raised_trapEntry _ rfl)
    · exact .inl (by simp)
  | queueSend =>
    obtain ⟨_, rfl⟩ | ⟨_, a, q, _, rfl⟩ := he
    · exact .inl (by simp)
    · obtain ⟨l, hl, _⟩ := ({ s with oq := q } : State).sendI_log a
      exact .inl ⟨by simp, by simp [hl]⟩
  | forceAck => obtain ⟨_, rfl⟩ | ⟨_, rfl⟩ := he <;> exact .inl (by simp)
  | t3Check =>
    obtain ⟨_, _, rfl⟩ | ⟨_, _, rfl⟩ | ⟨_, rfl⟩ := he
    · exact .inr (raised_trapEntry _ (by simp))
    · exact .inl (by simp)
    · exact .inl (by simp)
  | t2Check => obtain ⟨_, _, _, rfl⟩ | ⟨_, rfl⟩ := he <;> exact .inl (by simp)
  | rxStartdtAct f | rxStopdtAct f | rxTestfrAct f | rxTestfrCon f | rxS f | rxUnknown f
  | t3Reset =>
    obtain rfl := he
    exact .inl (by simp)
  | _ => cases hi

/-- After `ITERATE` the loop was entered and goes on, or trap entry has been taken (R209, R242). -/
theorem execIterate_stays_or_raises {s t : State} (h : execIterate s = .next t) :
    (s.isRunning = true ∧ t.phase = .running ∧ s.log <+: t.log) ∨ Raised s t := by
  have hl := (execIterate_next h).1
  refine execIterate_keeps
    (fun u => (s.isRunning = true ∧ u.phase = .running ∧ s.log <+: u.log) ∨ Raised s u)
    ?ops ?window ?enter ?close h
  case ops =>
    rintro i u v hi (⟨hr, hp, hlog⟩ | ⟨hp, _⟩) huv
    · obtain ⟨hp', hlog'⟩ | hraise := exec_stays_or_raises hi huv
      · exact .inl ⟨hr, hp'.trans hp, hlog.trans hlog'⟩
      · exact .inr (.of_log_extends hlog hraise)
    · obtain hu | hu : u.InLoop := exec_inLoop huv
        (by rintro rfl; cases hi) (by rintro rfl; cases hi) (by rintro rfl; cases hi) <;>
        simp [hp] at hu
  case window => exact fun u hu => hu
  case enter => exact fun hr => .inl ⟨hr, s.enterLoop_phase hl, by simp⟩
  case close => exact fun _ => .inr (raised_trapEntry _ rfl)

/-- Settles O49: `ITERATE` stays in the loop it entered or raises, `DO_CLOSE` goes from CLOSING to
CLOSED, and a move of the environment leaves `phase`. -/
theorem phaseMovesOnlyForward : Obligations.PhaseMovesOnlyForward := by
  intro s t h hne
  obtain ⟨hl, h⟩ | ⟨hp, h⟩ | h := step_worker_or_environment h
  · obtain ⟨hr, hrun, _⟩ | hraise := execIterate_stays_or_raises h
    · have hs : s.phase = .started := hl.resolve_right fun hs => hne (hrun.trans hs.symm)
      exact .inl ⟨hs, hr, hrun⟩
    · exact .inr (.inl ⟨hl, hraise⟩)
  · obtain ⟨_, rfl⟩ := execDoClose_next h
    exact .inr (.inr ⟨hp, rfl, rfl⟩)
  · exact absurd (by rw [h]; rfl) hne

/-! ### Between two steps `unconfirmedCount` is within `w` (R40, R134) -/

/-- An operation of step 1 that raised has counted no I-frame. -/
theorem runReceived_raise_unconfirmedCount {c : FrameClass} {f : RxFrame} {s t : State}
    (h : runReceived c f s = .next t) (hp : t.phase = .closing) :
    t.unconfirmedCount = s.unconfirmedCount := by
  cases c with
  | i =>
    obtain ⟨hl, ⟨_, rfl⟩ | ⟨_, _, _, _, _, _, rfl⟩⟩ := execRxI_next h
    · simp
    · obtain hl | hl := hl <;> simp [hl] at hp
  | _ =>
    rw [runReceived_eq_exec] at h
    obtain rfl := exec_next h
    simp

/-- Step 1 that raised has counted no I-frame. -/
theorem readAndRoute_raise_unconfirmedCount {s t : State} (h : readAndRoute s = .next t)
    (hp : t.phase = .closing) : t.unconfirmedCount = s.unconfirmedCount := by
  obtain ⟨u, hu, hcase⟩ := readAndRoute_next h
  obtain ⟨_, rfl⟩ | ⟨_, _, rfl, rfl⟩ | ⟨_, _, _, x, _, _, rfl, hx, hend⟩ := hcase
  · obtain ⟨_, ⟨_, _, rfl⟩ | ⟨_, _, rfl⟩ | ⟨_, _, rfl⟩ | ⟨_, _, _, _, rfl⟩ | ⟨_, _, _, _, rfl⟩⟩ :=
      execReadFrame_next hu <;> simp
  · simp
  · obtain ⟨hxp, rfl⟩ | ⟨hxp, _, rfl⟩ := hend
    · simpa using runReceived_raise_unconfirmedCount hx hxp
    · exact absurd (by simpa using hp) hxp

/-- FORCE_ACK brings `unconfirmedCount` within `w`, and the timers leave it there. -/
theorem afterRead_unconfirmedCount_le {s t : State} (h : afterRead s = .next t) :
    t.unconfirmedCount ≤ t.w := by
  obtain ⟨q, f, c, _, hf, hc, hend⟩ := afterRead_next h
  have hfw : f.unconfirmedCount ≤ f.w := by
    obtain ⟨_, ⟨_, rfl⟩ | ⟨hle, rfl⟩⟩ := execForceAck_next hf
    · simp
    · exact hle
  have hcw : c.unconfirmedCount ≤ c.w := by
    obtain ⟨_, ⟨_, _, rfl⟩ | ⟨_, _, rfl⟩ | ⟨_, rfl⟩⟩ := execT3Check_next hc <;> simpa using hfw
  obtain ⟨_, rfl⟩ | ⟨_, ht⟩ := hend
  · exact hcw
  · obtain ⟨_, ⟨_, _, _, rfl⟩ | ⟨_, rfl⟩⟩ := execT2Check_next ht
    · simp
    · simpa using hcw

theorem execIterate_unconfirmedCount_le {s t : State} (h : execIterate s = .next t)
    (hs : s.unconfirmedCount ≤ s.w) : t.unconfirmedCount ≤ t.w := by
  obtain ⟨_, _, hw, _⟩ := execIterate_sameParams h
  obtain ⟨_, ⟨_, rfl⟩ | ⟨_, r, hread, ⟨hp, rfl⟩ | ⟨_, hafter⟩⟩⟩ := execIterate_next h
  · exact hs
  · rw [readAndRoute_raise_unconfirmedCount hread hp, hw]
    simpa using hs
  · exact afterRead_unconfirmedCount_le hafter

/-! ### What every operation of an iteration keeps (R22, R40, R244) -/

/-- The part of the invariant that holds between two operations of an iteration: the bounds of the
probes and of the times, no output, and the count of the I-frames received. -/
structure State.LoopInv (s : State) : Prop where
  probes : s.outstandingTestProbes ≤ s.probeLimit + 1
  confirmation : s.lastConfirmationTime ≤ s.now
  deadline : s.nextIdleTimeoutAt ≤ s.now + s.t3 * s.tps
  outputs : s.out = []
  received : s.receiveCount.toNat = countRxI s.log % 32768

theorem State.LoopInv.closeWindow {s : State} (h : s.LoopInv) : s.closeWindow.LoopInv := { h with }

/-- An event other than a received I-frame. -/
theorem State.LoopInv.logEvent {s : State} (h : s.LoopInv) {e : LogEvent}
    (he : countRxI [e] = 0) : (s.logEvent e).LoopInv :=
  { h with received := by simpa [he] using h.received }

theorem State.LoopInv.trapEntry {s : State} (h : s.LoopInv) (c : Cause) :
    (s.trapEntry c).LoopInv :=
  { h.logEvent (e := .closing c.code c.info) rfl with }

theorem State.LoopInv.dropByte {s : State} (h : s.LoopInv) (b : Byte) (rest : List Byte) :
    (s.dropByte b rest).LoopInv := by
  obtain ⟨_, hd⟩ | ⟨_, hd⟩ := s.dropByte_cases b rest
  · exact hd ▸ h.trapEntry _
  · exact hd ▸ { h.logEvent (e := .missingStartByte b) rfl with }

/-- Time passes. -/
theorem State.LoopInv.sample {s : State} (h : s.LoopInv) : s.sample.LoopInv := by
  have hnow := s.now_le_timeRead
  rw [State.sample_eq]
  exact { h with
    confirmation := h.confirmation.trans hnow
    deadline := h.deadline.trans (Nat.add_le_add_right hnow _) }

/-- The deadline is set from the present time. -/
theorem State.LoopInv.setIdleDeadline {s : State} (h : s.LoopInv) :
    s.setIdleDeadline.LoopInv :=
  { h with deadline := Nat.le_refl _ }

/-- The S-frame is stamped with the time just read. -/
theorem State.LoopInv.sendS {s : State} (h : s.LoopInv) : s.sendS.LoopInv := by
  rw [State.sendS_eq]
  exact { h with
    confirmation := Nat.le_refl _
    deadline := h.deadline.trans (Nat.add_le_add_right s.now_le_timeRead _) }

theorem State.LoopInv.sendI {s : State} (h : s.LoopInv) (a : Asdu) : (s.sendI a).LoopInv := by
  by_cases ha : a.length ≤ 251
  · rw [State.sendI_fits s ha]
    exact { h with }
  · rw [State.sendI_overlong s (by omega)]
    exact { h.logEvent (e := .asduTooLong) rfl with }

theorem State.LoopInv.dispatchAsdu {s : State} (h : s.LoopInv) (a : Asdu) :
    (s.dispatchAsdu a).LoopInv := by
  obtain ⟨l, hl, hcount⟩ := s.dispatchAsdu_log a
  obtain ⟨hp, hc, hd, ho, hr⟩ := h
  constructor <;> simpa [hl, hcount]

/-- A received I-frame is logged and counted, and the first one is stamped with the time (R131). -/
theorem State.LoopInv.countI {s : State} (h : s.LoopInv) (ns nr : Seq) :
    ((s.logEvent (.rxI ns nr)).countI).LoopInv := by
  have hr : (s.receiveCount + 1).toNat = countRxI (s.log ++ [.rxI ns nr]) % 32768 := by
    rw [toNat_add_one, h.received, countRxI_append]
    simp [countRxI]
  rw [State.countI_eq]
  by_cases h0 : (s.logEvent (.rxI ns nr)).unconfirmedCount = 0
  · simp only [if_pos h0]
    exact { h with
      confirmation := Nat.le_refl _
      deadline := h.deadline.trans (Nat.add_le_add_right s.now_le_timeRead _)
      received := hr }
  · simp only [if_neg h0]
    exact { h with received := hr }

/-- Every operation of an iteration keeps that part. -/
theorem exec_loopInv {i : Instr} {s t : State} (hi : inIteration i = true) (hs : s.LoopInv)
    (h : exec i s = .next t) : t.LoopInv := by
  have he := exec_next h
  cases i with
  | rxI f =>
    obtain ⟨_, rfl⟩ | ⟨_, _, _, _, _, _, rfl⟩ := he
    · exact hs.trapEntry _
    · exact (hs.countI _ _).dispatchAsdu _
  | rxStartdtAct f | rxStopdtAct f | rxTestfrAct f =>
    obtain rfl := he
    exact { hs with }
  | rxTestfrCon f =>
    obtain rfl := he
    exact { hs with probes := Nat.zero_le _ }
  | rxS f | rxUnknown f =>
    obtain rfl := he
    exact hs.logEvent rfl
  | readFrame =>
    obtain ⟨_, _, rfl⟩ | ⟨_, _, rfl⟩ | ⟨_, _, rfl⟩ | ⟨_, _, _, _, rfl⟩ | ⟨_, _, _, _, rfl⟩ := he
    · exact hs.closeWindow.trapEntry _
    · exact hs.closeWindow.trapEntry _
    · exact hs.closeWindow
    · exact hs.closeWindow.dropByte _ _
    · exact { hs with }
  | classify n =>
    obtain ⟨_, rfl⟩ | ⟨_, _, _, rfl⟩ := he
    · exact hs.trapEntry _
    · exact { hs with }
  | queueSend =>
    obtain ⟨_, rfl⟩ | ⟨_, a, q, _, rfl⟩ := he
    · exact hs
    · exact State.LoopInv.sendI (s := { s with oq := q }) { hs with } a
  | forceAck =>
    obtain ⟨_, rfl⟩ | ⟨_, rfl⟩ := he
    · exact hs.sendS
    · exact hs
  | t3Reset =>
    obtain rfl := he
    exact hs.sample.setIdleDeadline
  | t3Check =>
    obtain ⟨_, _, rfl⟩ | ⟨_, hle, rfl⟩ | ⟨_, rfl⟩ := he
    · exact hs.sample.trapEntry _
    · exact { hs with
        probes := Nat.succ_le_succ hle
        confirmation := hs.confirmation.trans s.now_le_timeRead
        deadline := Nat.le_refl _ }
    · exact hs.sample
  | t2Check =>
    obtain ⟨_, _, _, rfl⟩ | ⟨_, rfl⟩ := he
    · exact hs.sample.sendS
    · exact hs.sample
  | _ => cases hi

theorem execIterate_loopInv {s t : State} (h : execIterate s = .next t) (hs : s.LoopInv) :
    t.LoopInv := by
  refine execIterate_keeps State.LoopInv ?ops ?window ?enter ?close h
  case ops => exact fun i u v hi hu huv => exec_loopInv hi hu huv
  case window => exact fun u hu => hu.closeWindow
  case enter =>
    intro
    unfold State.enterLoop
    split
    · exact { hs with }
    · exact hs
  case close => exact fun _ => hs.trapEntry _

/-! ### Every step keeps the invariant (R40, R113, R242 to R244) -/

/-- Outside CLOSED the invariant gives the part an iteration keeps. -/
theorem State.Inv.loopInv {s : State} (h : s.Inv) (hp : s.phase ≠ .closed) : s.LoopInv where
  probes := h.probesWithinLimit
  confirmation := h.confirmationNotAhead
  deadline := h.deadlineNotBeyond
  outputs := by rw [h.outputsOnce, if_neg hp]
  received := h.receiveCountsReceived

theorem State.InLoop.phase_ne_closed {s : State} (h : s.InLoop) : s.phase ≠ .closed := by
  obtain h | h := h <;> simp [h]

/-- `ITERATE` keeps the invariant: `phase` ends in RUNNING or CLOSING, what every operation keeps is
kept, `unconfirmedCount` is back within `w`, FB's window is closed, and TX has gained counted
frames. -/
theorem execIterate_inv {s t : State} (h : execIterate s = .next t) (hs : s.Inv) : t.Inv := by
  obtain ⟨_, _, hw, htps, hmin, _, _⟩ := execIterate_sameParams h
  have hloop := execIterate_loopInv h (hs.loopInv (execIterate_next h).1.phase_ne_closed)
  have hphase : t.phase = .running ∨ t.phase = .closing ∧ t.isRunning = false := by
    obtain ⟨_, hp, _⟩ | ⟨hp, hr, _⟩ := execIterate_stays_or_raises h
    · exact .inl hp
    · exact .inr ⟨hp, hr⟩
  obtain ⟨new, htx, hnew, hcount⟩ := execIterate_countedAppend h
  exact {
    wInRange := hw ▸ hs.wInRange
    tpsPositive := htps ▸ hs.tpsPositive
    iMinSizeCoversHeader := hmin ▸ hs.iMinSizeCoversHeader
    unconfirmedWithinW := execIterate_unconfirmedCount_le h hs.unconfirmedWithinW
    probesWithinLimit := hloop.probes
    confirmationNotAhead := hloop.confirmation
    deadlineNotBeyond := hloop.deadline
    startedIsFresh := by
      intro hp
      simp [hp] at hphase
    closingNotRunning := by
      intro hp
      obtain hrun | ⟨_, hr⟩ := hphase
      · simp [hrun] at hp
      · exact hr
    outputsOnce := by
      have hp : t.phase ≠ .closed := by
        obtain hp | ⟨hp, _⟩ := hphase <;> simp [hp]
      rw [hloop.outputs, if_neg hp]
    closedIsEmpty := by
      intro hp
      simp [hp] at hphase
    bufferWindowClosed := execIterate_keeps_windowClosed h hs.bufferWindowClosed
    onlyTransmittable := by
      intro f hf
      rw [htx] at hf
      exact (List.mem_append.mp hf).elim (hs.onlyTransmittable f) (hnew f)
    sendCountsTransmitted := by
      rw [hcount, hs.sendCountsTransmitted, htx, countIFrames_append]
      omega
    receiveCountsReceived := hloop.received }

/-- `DO_CLOSE` emits both outputs, for the first time (R243, R244). -/
theorem execDoClose_inv {s t : State} (h : execDoClose s = .next t) (hs : s.Inv) : t.Inv := by
  obtain ⟨hp, rfl⟩ := execDoClose_next h
  have hout : s.out = [] := by rw [hs.outputsOnce, hp]; rfl
  exact { hs with
    startedIsFresh := nofun
    closingNotRunning := fun _ => hs.closingNotRunning (.inl hp)
    outputsOnce := by simp [hout]
    closedIsEmpty := fun _ => ⟨rfl, rfl⟩ }

/-- Settles O48: the worker's two steps by their own lemmas; a move of the environment writes a port,
the flag or the time, and time only grows. -/
theorem stepKeepsInvariant : Obligations.StepKeepsInvariant := by
  intro s t hs h
  have hpop : s.popMove.Inv := { hs with }
  obtain ⟨_, h⟩ | ⟨_, h⟩ | ⟨_, hp, _, rfl⟩ | ⟨_, rfl⟩ | rfl | ⟨_, rfl⟩ | rfl | rfl | ⟨d, rfl⟩ :=
    step_next h
  · exact execIterate_inv h hpop
  · exact execDoClose_inv h hpop
  · exact { hs with closedIsEmpty := fun hc => absurd hc hp }
  · exact hpop
  · exact { hs with closedIsEmpty := fun hc => ⟨(hs.closedIsEmpty hc).1, rfl⟩ }
  · exact { hs with }
  · exact { hs with closingNotRunning := fun _ => rfl }
  · exact hpop
  · have hnow : s.now ≤ s.now + d := Nat.le_add_right _ _
    exact { hs with
      confirmationNotAhead := hs.confirmationNotAhead.trans hnow
      deadlineNotBeyond := hs.deadlineNotBeyond.trans (Nat.add_le_add_right hnow _) }

end Sys2Proof.Machine

/-! # Proofs: the order of effects in one iteration (spec/20_memory.md section 6)

What each step of `ITERATE` appends to TX, step by step, and the whole iteration from it. -/

namespace Sys2Proof.Machine

/-- What one step other than step 1 transmits: no frame, or one frame of the form `P`. -/
def AtMostOne (P : Frame → Prop) (fs : List Frame) : Prop := fs.length ≤ 1 ∧ ∀ f ∈ fs, P f

theorem AtMostOne.nil {P : Frame → Prop} : AtMostOne P [] := ⟨Nat.zero_le _, nofun⟩

theorem AtMostOne.singleton {P : Frame → Prop} {f : Frame} (h : P f) : AtMostOne P [f] :=
  ⟨Nat.le_refl _, by simpa using h⟩

/-! ### Step 1 (R203) -/

/-- What step 1 transmits: one confirmation, or I-frames (the responses of a dispatch). -/
def IsReply (fs : List Frame) : Prop :=
  (∃ f, fs = [f] ∧ IsConfirmation f) ∨ ∀ f ∈ fs, IsIFrame f

/-- A step 1 without a reply. -/
theorem IsReply.nil : IsReply [] := .inr nofun

/-- The responses of a dispatch are I-frames, none while inactive (R190, R191). -/
theorem State.dispatchAsdu_tx (s : State) (a : Asdu) :
    ∃ fs, (s.dispatchAsdu a).tx = s.tx ++ fs ∧ ∀ f ∈ fs, IsIFrame f := by
  cases ha : s.isActive with
  | false => exact ⟨[], by simp [State.dispatchAsdu_inactive s a ha], nofun⟩
  | true =>
    exact ⟨_, congrArg State.tx (State.dispatchAsdu_active s a ha), isIFrame_responseFrames _ _ _⟩

/-- A received-frame operation appends its reply. -/
theorem runReceived_tx {c : FrameClass} {f : RxFrame} {s t : State}
    (h : runReceived c f s = .next t) : ∃ reply, t.tx = s.tx ++ reply ∧ IsReply reply := by
  rw [runReceived_eq_exec] at h
  have he := exec_next h
  cases c with
  | i =>
    obtain ⟨_, rfl⟩ | ⟨_, c2, c3, c4, asdu, _, rfl⟩ := he
    · exact ⟨[], by simp, .nil⟩
    · obtain ⟨fs, htx, hfs⟩ :=
        ((s.logEvent (.rxI (decSeq f.c1 c2) (decSeq c3 c4))).countI).dispatchAsdu_tx asdu
      exact ⟨fs, by simpa using htx, .inr hfs⟩
  | startdtAct =>
    obtain rfl := he
    exact ⟨_, rfl, .inl ⟨_, rfl, .inl rfl⟩⟩
  | stopdtAct =>
    obtain rfl := he
    exact ⟨_, rfl, .inl ⟨_, rfl, .inr (.inl rfl)⟩⟩
  | testfrAct =>
    obtain rfl := he
    exact ⟨_, rfl, .inl ⟨_, rfl, .inr (.inr rfl)⟩⟩
  | s | testfrCon | unknown =>
    obtain rfl := he
    exact ⟨[], by simp, .nil⟩

/-- `READ_FRAME` transmits nothing (R100). -/
theorem execReadFrame_tx {s t : State} (h : execReadFrame s = .next t) : t.tx = s.tx := by
  obtain ⟨_, ⟨_, _, rfl⟩ | ⟨_, _, rfl⟩ | ⟨_, _, rfl⟩ | ⟨_, _, _, _, rfl⟩ | ⟨_, _, _, _, rfl⟩⟩ :=
    execReadFrame_next h <;> simp

/-- Step 1 appends the reply to the frame it read, raise or not. -/
theorem readAndRoute_tx {s t : State} (h : readAndRoute s = .next t) :
    ∃ reply, t.tx = s.tx ++ reply ∧ IsReply reply := by
  obtain ⟨u, hu, hcase⟩ := readAndRoute_next h
  have hutx := execReadFrame_tx hu
  obtain ⟨_, rfl⟩ | ⟨_, _, _, rfl⟩ | ⟨_, _, _, x, _, _, _, hx, hend⟩ := hcase
  · exact ⟨[], by simpa using hutx, .nil⟩
  · exact ⟨[], by simpa using hutx, .nil⟩
  · obtain ⟨reply, hxtx, hreply⟩ := runReceived_tx hx
    have htx : t.tx = x.tx := by
      obtain ⟨_, rfl⟩ | ⟨_, _, rfl⟩ := hend <;> simp
    exact ⟨reply, by simpa [htx, hutx] using hxtx, hreply⟩

/-! ### Steps 2 to 5 (R204 to R207) -/

/-- Step 2 appends at most one I-frame; an over-long ASDU gives none (R130). -/
theorem execQueueSend_tx {s t : State} (h : execQueueSend s = .next t) :
    ∃ queued, t.tx = s.tx ++ queued ∧ AtMostOne IsIFrame queued := by
  obtain ⟨_, ⟨_, rfl⟩ | ⟨_, a, q, _, rfl⟩⟩ := execQueueSend_next h
  · exact ⟨[], by simp, .nil⟩
  · by_cases ha : a.length ≤ 251
    · exact ⟨_, by rw [State.sendI_fits _ ha], .singleton (isIFrame_writeIFrame _ _ ha)⟩
    · exact ⟨[], by simp [State.sendI_overlong _ (by omega : 251 < a.length)], .nil⟩

/-- Step 3 appends nothing, or one S-frame, after which no I-frame is unconfirmed (R134, R133). -/
theorem execForceAck_tx {s t : State} (h : execForceAck s = .next t) :
    t.tx = s.tx ∨ (∃ f, t.tx = s.tx ++ [f] ∧ IsSFrame f) ∧ t.unconfirmedCount = 0 := by
  obtain ⟨_, ⟨_, rfl⟩ | ⟨_, rfl⟩⟩ := execForceAck_next h
  · exact .inr ⟨⟨_, s.sendS_tx, isSFrame_writeSFrame _⟩, by simp⟩
  · exact .inl rfl

/-- `T3_CHECK` appends at most one probe and confirms nothing (R152, R158). -/
theorem execT3Check_tx {s t : State} (h : execT3Check s = .next t) :
    (∃ probe, t.tx = s.tx ++ probe ∧ AtMostOne IsProbe probe) ∧
      t.unconfirmedCount = s.unconfirmedCount := by
  obtain ⟨_, ⟨_, _, rfl⟩ | ⟨_, _, rfl⟩ | ⟨_, rfl⟩⟩ := execT3Check_next h
  · exact ⟨⟨[], by simp, .nil⟩, by simp⟩
  · exact ⟨⟨_, rfl, .singleton rfl⟩, rfl⟩
  · exact ⟨⟨[], by simp, .nil⟩, by simp⟩

/-- `T2_CHECK` appends nothing, or one S-frame where an I-frame is unconfirmed (R153). -/
theorem execT2Check_tx {s t : State} (h : execT2Check s = .next t) :
    t.tx = s.tx ∨ (∃ f, t.tx = s.tx ++ [f] ∧ IsSFrame f) ∧ 0 < s.unconfirmedCount := by
  obtain ⟨_, ⟨hu, _, _, rfl⟩ | ⟨_, rfl⟩⟩ := execT2Check_next h
  · exact .inr ⟨⟨writeSFrame s.receiveCount, by simp, isSFrame_writeSFrame _⟩, hu⟩
  · exact .inl (by simp)

/-- From `s` to `t` TX has gained what steps 2 to 5 may transmit, in their order. -/
def AppendsStepsTwoToFive (s t : State) : Prop :=
  ∃ queued forced probe acked : List Frame,
    t.tx = s.tx ++ queued ++ forced ++ probe ++ acked ∧ AtMostOne IsIFrame queued ∧
      AtMostOne IsSFrame (forced ++ acked) ∧ AtMostOne IsProbe probe

/-- An iteration that ends before step 2. -/
theorem AppendsStepsTwoToFive.refl (s : State) : AppendsStepsTwoToFive s s :=
  ⟨[], [], [], [], by simp, .nil, .nil, .nil⟩

/-- Steps 2 to 5: the forced S-frame of step 3 leaves nothing for the T2 S-frame of step 5 to
confirm, so at most one of them is sent. -/
theorem afterRead_appends {s t : State} (h : afterRead s = .next t) :
    AppendsStepsTwoToFive s t := by
  obtain ⟨q, f, c, hq, hf, hc, hend⟩ := afterRead_next h
  obtain ⟨queued, hqtx, hqueued⟩ := execQueueSend_tx hq
  obtain ⟨⟨probe, hctx, hprobe⟩, hcount⟩ := execT3Check_tx hc
  have hend : t.tx = c.tx ∨ (∃ a, t.tx = c.tx ++ [a] ∧ IsSFrame a) ∧ 0 < c.unconfirmedCount := by
    obtain ⟨_, rfl⟩ | ⟨_, ht⟩ := hend
    · exact .inl rfl
    · exact execT2Check_tx ht
  obtain hftx | ⟨⟨forced, hftx, hforced⟩, h0⟩ := execForceAck_tx hf
  · obtain htx | ⟨⟨acked, htx, hacked⟩, _⟩ := hend
    · exact ⟨queued, [], probe, [], by simp [htx, hctx, hftx, hqtx], hqueued, .nil, hprobe⟩
    · exact ⟨queued, [], probe, [acked], by simp [htx, hctx, hftx, hqtx], hqueued,
        .singleton hacked, hprobe⟩
  · obtain htx | ⟨_, hpos⟩ := hend
    · exact ⟨queued, [forced], probe, [], by simp [htx, hctx, hftx, hqtx], hqueued,
        .singleton hforced, hprobe⟩
    · omega

/-! ### The iteration (R61, R209) -/

/-- An iteration appends the reply of step 1, then what steps 2 to 5 transmit. -/
theorem execIterate_appends {s t : State} (h : execIterate s = .next t) :
    ∃ (r : State) (reply : List Frame), r.tx = s.tx ++ reply ∧ IsReply reply ∧
      AppendsStepsTwoToFive r t := by
  obtain ⟨_, ⟨_, rfl⟩ | ⟨_, r, hread, hend⟩⟩ := execIterate_next h
  · exact ⟨_, [], by simp, .nil, .refl _⟩
  · obtain ⟨reply, hrtx, hreply⟩ := readAndRoute_tx hread
    refine ⟨r, reply, by simpa using hrtx, hreply, ?_⟩
    obtain ⟨_, rfl⟩ | ⟨_, hafter⟩ := hend
    · exact .refl _
    · exact afterRead_appends hafter

/-- Settles O42: step 1 by its reply, steps 2 to 5 by what each appends. -/
theorem iterationTransmitsInStepOrder : Obligations.IterationTransmitsInStepOrder := by
  intro s t h
  obtain ⟨r, reply, hrtx, hreply, queued, forced, probe, acked, htx, ⟨hqlen, hqueued⟩,
    ⟨hslen, hacks⟩, hplen, hprobe⟩ := execIterate_appends h
  exact ⟨reply, queued, forced, probe, acked, by rw [htx, hrtx], hreply, hqlen, hqueued,
    by simpa using hslen, hacks, hplen, hprobe⟩

end Sys2Proof.Machine

/-! # Proofs: the encoding (spec/30_encoding.md)

The sequence fields, the decode tree by the bits of the first control octet, and the frames of the
received and the transmitted operations, read back by their decoders. -/

namespace Sys2Proof

/-! ### Received frames (R70, R79, R81) -/

/-- Settles O5: a received operation is that of a class, and the class of its frame's first control
octet is the one that `wf` demands. -/
theorem receivedFramesDecodeBack : Obligations.ReceivedFramesDecodeBack := by
  intro i rest hrec hwf
  obtain ⟨c, ⟨c1, tail⟩, rfl⟩ := isReceived_cases hrec
  rw [wf_receivedInstr, RxFrame.wf_iff] at hwf
  obtain ⟨rfl, hlen⟩ := hwf
  exact ⟨_, encode_receivedInstr _ _, decode_frameOf c1 tail rest hlen⟩

/-- Settles O6: the decoder has read the frame of a first control octet and a tail, and answers the
operation of the octet's class. -/
theorem decodedBytesEncodeBack : Obligations.DecodedBytesEncodeBack := by
  intro bytes rest i h
  obtain ⟨c1, tail, hlen, hbytes, rfl⟩ := decode_ok h
  refine ⟨isReceived_receivedInstr _ _, ?_, _, encode_receivedInstr _ _, hbytes⟩
  rw [wf_receivedInstr, RxFrame.wf_iff]
  exact ⟨rfl, hlen⟩

/-! ### Sequence fields (R76 to R78) -/

/-- The low byte of a decoded field, its format bit cleared (R77). -/
theorem encLo_decSeq (lo hi : Byte) : (encLo (decSeq lo hi)).toNat = lo.toNat / 2 * 2 := by
  rw [encLo_toNat, decSeq_toNat]
  omega

@[simp] theorem encHi_decSeq (lo hi : Byte) : encHi (decSeq lo hi) = hi := by
  apply BitVec.eq_of_toNat_eq
  rw [encHi_toNat, decSeq_toNat]
  omega

/-- Settles O1: the values of the two bytes and of the decoded number, then linear arithmetic. -/
theorem sequenceFieldsRoundTrip : Obligations.SequenceFieldsRoundTrip := by
  refine ⟨fun n => ?_, decSeq_toNat, fun lo hi heven => ⟨?_, encHi_decSeq lo hi⟩⟩
  · have hlo := encLo_toNat n
    have hhi := encHi_toNat n
    exact ⟨hlo, hhi, by omega, by omega, decSeq_enc n, by omega⟩
  · apply BitVec.eq_of_toNat_eq
    rw [encLo_decSeq]
    omega

/-! ### Transmitted frames (R71 to R73, LOG 20) -/

theorem decodeTx_writeIFrame (ns nr : Seq) {asdu : Asdu} (h : asdu.length ≤ 251) :
    decodeTx (writeIFrame asdu ns nr) = .ok (.txI asdu ns nr) := by
  have hlen : (4 + asdu.length) % 256 = 4 + asdu.length := Nat.mod_eq_of_lt (by omega)
  simp [decodeTx, writeIFrame, hlen]

/-- The first control octet `01` is no I-frame's, and nothing follows the four control octets. -/
theorem decodeTx_writeSFrame (nr : Seq) : decodeTx (writeSFrame nr) = .ok (.txS nr) := by
  simp [decodeTx, writeSFrame]

/-- Settles O7: one case per writer; the four U-frames are literals. -/
theorem transmittedFramesDecodeBack : Obligations.TransmittedFramesDecodeBack := by
  intro i htx hwf
  cases i with
  | txI asdu ns nr =>
    have hlen : asdu.length ≤ 251 := of_decide_eq_true hwf
    exact ⟨_, rfl, decodeTx_writeIFrame ns nr hlen⟩
  | txS nr => exact ⟨_, rfl, decodeTx_writeSFrame nr⟩
  | txStartdtCon | txStopdtCon | txTestfrCon | txTestfrAct => exact ⟨_, rfl, rfl⟩
  | _ => cases htx

/-! ### The decode tree by bits (R79, decisions D8 to D11) -/

/-- A mask matches when every bit of it is set (D8). -/
theorem maskMatches_iff (c1 mask : Byte) :
    maskMatches c1 mask = true ↔
      ∀ i : Fin 8, mask.getLsbD i = true → c1.getLsbD i = true := by
  have hbits : c1 &&& mask = mask ↔ ∀ i : Fin 8, (c1 &&& mask).getLsbD i = mask.getLsbD i :=
    ⟨fun h _ => by rw [h], fun h => BitVec.eq_of_getLsbD_eq fun i hi => h ⟨i, hi⟩⟩
  simp [maskMatches, hbits]

/-- The test of one bit for 0 (tests 2 and 7 of R79). -/
theorem and_twoPow_eq_zero_iff (c1 : Byte) (k : Nat) (hk : k < 8) :
    c1 &&& BitVec.twoPow 8 k = 0x00 ↔ c1.getLsbD k = false := by
  have hne : BitVec.twoPow 8 k ≠ 0#8 := fun h => by
    simpa [hk] using congrArg (BitVec.getLsbD · k) h
  rw [BitVec.and_twoPow]
  cases c1.getLsbD k <;> simp [hne]

theorem and_0x01_eq_zero_iff (c1 : Byte) : c1 &&& 0x01 = 0x00 ↔ c1.getLsbD 0 = false :=
  and_twoPow_eq_zero_iff c1 0 (by decide)

theorem and_0x02_eq_zero_iff (c1 : Byte) : c1 &&& 0x02 = 0x00 ↔ c1.getLsbD 1 = false :=
  and_twoPow_eq_zero_iff c1 1 (by decide)

theorem maskMatches_0x07 (c1 : Byte) : maskMatches c1 0x07 = true ↔
    c1.getLsbD 0 = true ∧ c1.getLsbD 1 = true ∧ c1.getLsbD 2 = true := by
  simp [maskMatches_iff, Fin.forall_fin_succ]

theorem maskMatches_0x13 (c1 : Byte) : maskMatches c1 0x13 = true ↔
    c1.getLsbD 0 = true ∧ c1.getLsbD 1 = true ∧ c1.getLsbD 4 = true := by
  simp [maskMatches_iff, Fin.forall_fin_succ]

theorem maskMatches_0x43 (c1 : Byte) : maskMatches c1 0x43 = true ↔
    c1.getLsbD 0 = true ∧ c1.getLsbD 1 = true ∧ c1.getLsbD 6 = true := by
  simp [maskMatches_iff, Fin.forall_fin_succ]

theorem maskMatches_0x83 (c1 : Byte) : maskMatches c1 0x83 = true ↔
    c1.getLsbD 0 = true ∧ c1.getLsbD 1 = true ∧ c1.getLsbD 7 = true := by
  simp [maskMatches_iff, Fin.forall_fin_succ]

/-- The decode tree with one bit per test: all four masks hold bits 0 and 1, so the test for class S
may stand before them (D11). -/
theorem classOf_eq_bits (c1 : Byte) :
    classOf c1 =
      if c1.getLsbD 0 = false then .i
      else if c1.getLsbD 1 = false then .s
      else if c1.getLsbD 2 = true then .startdtAct
      else if c1.getLsbD 4 = true then .stopdtAct
      else if c1.getLsbD 6 = true then .testfrAct
      else if c1.getLsbD 7 = true then .testfrCon
      else .unknown := by
  simp only [classOf, and_0x01_eq_zero_iff, and_0x02_eq_zero_iff, maskMatches_0x07,
    maskMatches_0x13, maskMatches_0x43, maskMatches_0x83]
  cases c1.getLsbD 0 <;> cases c1.getLsbD 1 <;> simp

/-- The four octets of RX_UNKNOWN by bits: 3 and 5 are the free ones. -/
theorem unknownOctet_iff (c1 : Byte) :
    (c1 = 0x03 ∨ c1 = 0x0B ∨ c1 = 0x23 ∨ c1 = 0x2B) ↔
      c1.getLsbD 0 = true ∧ c1.getLsbD 1 = true ∧ c1.getLsbD 2 = false ∧ c1.getLsbD 4 = false ∧
        c1.getLsbD 6 = false ∧ c1.getLsbD 7 = false := by
  revert c1
  decide

/-- Settles O2: the tree by bits, branch by branch; the counts by evaluation over the 256 octets. -/
theorem decodeTreePartitionsOctets : Obligations.DecodeTreePartitionsOctets := by
  refine ⟨fun c1 => ?_, by decide +kernel⟩
  rw [unknownOctet_iff, classOf_eq_bits]
  split_ifs with h0 h1 h2 h4 h6 h7 <;> simp_all

/-! ### Concrete octets and words (R80, R71 to R73) -/

/-- Settles O3, by evaluation of the four masks on the six octets. -/
theorem literalOctetsPassOneTest : Obligations.LiteralOctetsPassOneTest := by
  unfold Obligations.LiteralOctetsPassOneTest
  decide

/-- Settles O4, by evaluation of the decoders on the words. -/
theorem writtenWordsDecode : Obligations.WrittenWordsDecode :=
  ⟨rfl, rfl, rfl, rfl, rfl, rfl, rfl, rfl⟩

end Sys2Proof

/-! # Proofs: the frame codec (spec/40_frame_codec.md)

`READ_FRAME` by what stands at the head of RX, `CLASSIFY` by its tests, the writers, and the round
trip of a written frame through both. -/

namespace Sys2Proof.Machine

/-! ### READ_FRAME and RESYNC by the head of RX (R100, R102, R54) -/

section
variable {s : State} (hl : s.InLoop)
include hl

/-- No byte, or a frame that is not complete yet. -/
theorem execReadFrame_of_open (he : s.rxEof = false)
    (h : s.rx = [] ∨ headOf s.rx = .incomplete s.rx.length) :
    execReadFrame s = .next s.closeWindow := by
  rw [execReadFrame_eq hl]
  obtain h | h := h
  · simp [h, headOf, he]
  · rw [h]
    simp [he]

theorem execReadFrame_of_ended_empty (he : s.rxEof = true) (h : s.rx = []) :
    execReadFrame s = .next (s.closeWindow.trapEntry .socketClosed) := by
  rw [execReadFrame_eq hl]
  simp [h, headOf, he]

theorem execReadFrame_of_ended_incomplete (he : s.rxEof = true)
    (h : headOf s.rx = .incomplete s.rx.length) :
    execReadFrame s = .next (s.closeWindow.trapEntry (.framingError s.rx.length)) := by
  rw [execReadFrame_eq hl]
  simp [h, he]

theorem execReadFrame_of_frame {body rest : List Byte} (h : s.rx = frameOf body ++ rest)
    (hb : body.length ≤ 255) :
    execReadFrame s = .next (s.closeWindow.deliver body rest) := by
  rw [execReadFrame_eq hl, h, headOf_frameOf body rest hb]

theorem execReadFrame_of_badStart {b : Byte} {rest : List Byte} (h : s.rx = b :: rest)
    (hb : b ≠ startByte) : execReadFrame s = .next (s.closeWindow.dropByte b rest) := by
  rw [execReadFrame_eq hl, h, headOf_of_ne rest hb]

theorem execResync_of_badStart {b : Byte} {rest : List Byte} (h : s.rx = b :: rest)
    (hb : b ≠ startByte) : execResync s = .next (s.closeWindow.dropByte b rest) := by
  rw [execResync_eq hl, h]
  exact if_neg hb

end

/-- By default a byte that is no start byte is dropped and logged (R102). -/
theorem State.closeWindow_dropByte {s : State} (h : s.badStartFatal = false) (b : Byte)
    (rest : List Byte) :
    s.closeWindow.dropByte b rest =
      { s.closeWindow with log := s.log ++ [.missingStartByte b], rx := rest } :=
  if_neg (by simp [h])

/-- Settles O9, one head of RX after the other. -/
theorem readFrameCases : Obligations.ReadFrameCases := by
  intro s hl
  refine ⟨?silent, ?closed, ?badStart, ?incomplete, ?whole⟩
  case silent => exact fun h he => ⟨_, execReadFrame_of_open hl he (.inl h), rfl⟩
  case closed => exact fun h he => ⟨_, execReadFrame_of_ended_empty hl he h, rfl⟩
  case badStart =>
    intro b rest h hb hf
    exact ⟨_, execReadFrame_of_badStart hl h hb, by rw [State.closeWindow_dropByte hf]; rfl⟩
  case incomplete =>
    intro h
    have hh := headOf_part h
    exact ⟨fun he => ⟨_, execReadFrame_of_open hl he (.inr hh), rfl⟩,
      fun he => ⟨_, execReadFrame_of_ended_incomplete hl he hh, rfl⟩⟩
  case whole =>
    intro len body rest h hlen
    have hb : body.length ≤ 255 := by have := len.isLt; omega
    rw [frameOf_of_length hlen] at h ⊢
    rw [← hlen]
    refine ⟨_, execReadFrame_of_frame hl h hb, rfl, fun k _ => ?_⟩
    exact Memory.read_frame _ _ (by simp [frameOf]; omega)

/-- Settles O10: both operations drop the byte. -/
theorem resyncDropsOneByte : Obligations.ResyncDropsOneByte := by
  intro s b rest hl hf h hb
  have hresync := execResync_of_badStart hl h hb
  exact ⟨(execReadFrame_of_badStart hl h hb).trans hresync.symm, _, hresync,
    by rw [State.closeWindow_dropByte hf]; rfl⟩

/-- Settles O13: what `READ_FRAME` can answer, one way by its cases, the other by the incomplete
head that LEN and BODY stand for. -/
theorem readFrameFollowsParserState : Obligations.ReadFrameFollowsParserState := by
  intro s hl hf
  rw [parserState_ne_hunt]
  refine ⟨⟨?_, ?_⟩, fun he => ⟨?_, ?_⟩⟩
  · rintro ⟨t, h, hlog⟩
    obtain ⟨_, ⟨_, _, rfl⟩ | ⟨hh, he, _⟩ | ⟨_, _, rfl⟩ | ⟨_, _, _, _, rfl⟩ | ⟨_, _, _, _, rfl⟩⟩ :=
      execReadFrame_next h
    · simp [Cause.code] at hlog
    · exact ⟨he, hh⟩
    · simp at hlog
    · simp [State.closeWindow_dropByte hf] at hlog
    · simp at hlog
  · rintro ⟨he, hh⟩
    exact ⟨_, execReadFrame_of_ended_incomplete hl he hh, rfl⟩
  · rintro ⟨t, h, hrx⟩
    obtain ⟨_, ⟨_, he', _⟩ | ⟨_, he', _⟩ | ⟨hh, _, _⟩ | ⟨_, _, hs, _, rfl⟩ |
      ⟨body, rest, hs, _, rfl⟩⟩ := execReadFrame_next h
    · simp [he] at he'
    · simp [he] at he'
    · exact hh
    · simp [State.closeWindow_dropByte hf, hs] at hrx
    · have hlen := congrArg List.length (hrx.trans hs)
      simp [frameOf] at hlen
      omega
  · exact fun hh => ⟨_, execReadFrame_of_open hl he hh, rfl⟩

/-! ### CLASSIFY (R105) -/

/-- The class by the mask tests in their order, each mask as an equation (R79, D8). -/
theorem classOf_eq_masks (c1 : Byte) :
    classOf c1 =
      if c1.getLsbD 0 = false then .i
      else if c1 &&& 0x07 = 0x07 then .startdtAct
      else if c1 &&& 0x13 = 0x13 then .stopdtAct
      else if c1 &&& 0x43 = 0x43 then .testfrAct
      else if c1 &&& 0x83 = 0x83 then .testfrCon
      else if c1.getLsbD 1 = false then .s
      else .unknown := by
  simp only [classOf, maskMatches, beq_iff_eq, and_0x01_eq_zero_iff, and_0x02_eq_zero_iff]

/-- Settles O14, one case per side of its test of `n`. -/
theorem classifyReturnsClass : Obligations.ClassifyReturnsClass := by
  intro s n hl
  refine ⟨fun hn => ?_, fun c1 hn hread => ?_⟩
  · exact (execClassify_eq hl).trans (if_pos hn)
  · rw [← classOf_eq_masks]
    refine (execClassify_eq hl).trans ?_
    rw [if_neg (by omega), hread]
    rfl

/-! ### The writers (R107 to R112) -/

/-- `TX_I` in the loop (R107). -/
theorem execTxI_eq {asdu : Asdu} {ns nr : Seq} {s : State} (hl : s.InLoop) :
    execTxI asdu ns nr s =
      if 251 < asdu.length then .fault .asduTooLong
      else .next (s.txAppend (writeIFrame asdu ns nr)) :=
  whenWorker_inLoop _ hl

/-- A writer without a condition on its operand, in the loop (R108 to R112). -/
theorem whenWorker_txAppend {s : State} (hl : s.InLoop) (f : Frame) :
    whenWorker s (fun s => .next (s.txAppend f)) = .next { s with tx := s.tx ++ [f] } :=
  whenWorker_inLoop _ hl

/-- Settles O15: the ASDU is within the writer's bound. -/
theorem txIAppendsFrame : Obligations.TxIAppendsFrame := by
  intro s asdu ns nr hl hlen
  exact (execTxI_eq hl).trans (if_neg (Nat.not_lt.mpr hlen))

/-- Settles O16: each writer runs in the loop and appends its frame. -/
theorem fixedWritersAppendFrame : Obligations.FixedWritersAppendFrame := fun _ hl =>
  ⟨fun nr => whenWorker_txAppend hl (writeSFrame nr), whenWorker_txAppend hl (writeUFrame 0x0B),
    whenWorker_txAppend hl (writeUFrame 0x23), whenWorker_txAppend hl (writeUFrame 0x83),
    whenWorker_txAppend hl (writeUFrame 0x43)⟩

/-! ### The round trip (R114) -/

/-- A frame at the head of RX that has a first control octet is delivered into FB, classified by
that octet, and read out of FB again. -/
theorem readFrame_classify_frame {s : State} (hl : s.InLoop) {c1 : Byte} {tail rest : List Byte}
    (h : s.rx = frameOf (c1 :: tail) ++ rest) (ht : tail.length ≤ 254) :
    ∃ t, execReadFrame s = .next t ∧ t.rx = rest ∧ t.delivered = some (tail.length + 3) ∧
      (∀ k, t.fb.read k = (frameOf (c1 :: tail))[k]?) ∧
      execClassify (tail.length + 3) t = .next (t.setClass (classOf c1)) ∧
      (t.setClass (classOf c1)).fetchFrame (tail.length + 3) = some ⟨c1, tail⟩ :=
  ⟨_, execReadFrame_of_frame hl h (by simp; omega), rfl, rfl,
    fun _ => Memory.read_frame _ _ (by simp [frameOf]; omega),
    execClassify_delivered hl rfl ht, State.fetchFrame_delivered rfl ht⟩

/-- The classes of the four literals written (R109 to R112, R80). -/
theorem classOf_literal {c1 : Byte} {c : FrameClass}
    (h : (c1, c) ∈ [((0x0B : Byte), FrameClass.unknown), (0x23, .unknown), (0x83, .testfrCon),
      (0x43, .testfrAct)]) : classOf c1 = c := by
  simp only [List.mem_cons, Prod.mk.injEq, List.not_mem_nil, or_false] at h
  obtain ⟨rfl, rfl⟩ | ⟨rfl, rfl⟩ | ⟨rfl, rfl⟩ | ⟨rfl, rfl⟩ := h <;> rfl

/-- Settles O8: each written frame is that of a first control octet, so it comes back out of FB; its
class and its fields are then those of its octets. -/
theorem writtenFramesReadBack : Obligations.WrittenFramesReadBack := by
  intro s rest hl
  refine ⟨?iFrame, ?sFrame, ?literal⟩
  case iFrame =>
    intro asdu ns nr hlen h
    rw [writeIFrame_eq] at h ⊢
    obtain ⟨t, hread, hrx, hdel, hfb, hclass, hfetch⟩ :=
      readFrame_classify_frame hl h (by simp; omega)
    have hn : (encHi ns :: encLo nr :: encHi nr :: asdu).length + 3 = 6 + asdu.length := by
      simp; omega
    rw [hn] at hdel hclass hfetch
    have hfields : frameFields ⟨encLo ns, encHi ns :: encLo nr :: encHi nr :: asdu⟩
        = some (ns, nr, asdu) := by
      simp [frameFields]
    exact ⟨t, _, _, hread, hrx, hdel, hfb, hclass,
      congrArg some (classOf_of_even (encLo_and_one ns)), hfetch, hfields⟩
  case sFrame =>
    intro nr h
    obtain ⟨t, hread, _, _, hfb, hclass, _⟩ :=
      readFrame_classify_frame hl (tail := [0x00, encLo nr, encHi nr]) h (by simp)
    exact ⟨t, _, encLo nr, encHi nr, hread, hclass, rfl, hfb 4, hfb 5, decSeq_enc nr⟩
  case literal =>
    intro c1 c hc h
    obtain ⟨t, hread, _, _, _, hclass, _⟩ :=
      readFrame_classify_frame hl (tail := [0x00, 0x00, 0x00]) h (by simp)
    exact ⟨t, _, hread, hclass, congrArg some (classOf_literal hc)⟩

end Sys2Proof.Machine

/-! # Proofs: the sequence manager (spec/41_sequence_manager.md)

The send path, the two acknowledgments and the received I- and S-frames, each by what its shared
operation does to the state; the counters over lists of frames; and that the peer's numbers reach
the log only. -/

namespace Sys2Proof.Machine

/-! ### SEND_I, SEND_S and FORCE_ACK (R130, R133, R134) -/

/-- `SEND_I` in the loop (R130). -/
theorem execSendI_eq {asdu : Asdu} {s : State} (hl : s.InLoop) :
    execSendI asdu s = .next (s.sendI asdu) :=
  whenWorker_inLoop _ hl

/-- `SEND_S` in the loop (R133). -/
theorem execSendS_eq {s : State} (hl : s.InLoop) : execSendS s = .next s.sendS :=
  whenWorker_inLoop _ hl

/-- Settles O18, by the two sides of the bound on the ASDU. -/
theorem sendIStampsThenAdvances : Obligations.SendIStampsThenAdvances := by
  refine fun s asdu hl => ⟨fun hfits => ?_, fun hlong => ?_⟩
  · refine ⟨_, (execSendI_eq hl).trans (congrArg _ (s.sendI_fits hfits)), rfl, ?_⟩
    exact toNat_add_one s.sendCount
  · exact (execSendI_eq hl).trans (congrArg _ (s.sendI_overlong hlong))

/-- Settles O19, by the equation of the S-frame's tail. -/
theorem sendSAcknowledges : Obligations.SendSAcknowledges :=
  fun s hl => (execSendS_eq hl).trans (congrArg _ s.sendS_eq)

/-- Settles O20, by the two sides of the strict comparison. -/
theorem forceAckIsStrict : Obligations.ForceAckIsStrict := by
  refine fun s hl => ⟨fun hover => ?_, fun hwithin => ?_⟩
  · exact (execForceAck_eq hl).trans (congrArg _ ((if_pos hover).trans s.sendS_eq))
  · exact (execForceAck_eq hl).trans (congrArg _ (if_neg (Nat.not_lt.mpr hwithin)))

/-! ### RX_S (R132) -/

/-- `RX_S` in the loop (R132). -/
theorem execRxS_eq {f : RxFrame} {s : State} (hl : s.InLoop) :
    execRxS f s = .next (s.logEvent (.rxS ((frameFields f).map (·.2.1)))) :=
  whenWorker_inLoop _ hl

theorem frameFields_of_four_octets {f : RxFrame} {c2 c3 c4 : Byte} {asdu : Asdu}
    (h : f.tail = c2 :: c3 :: c4 :: asdu) :
    frameFields f = some (decSeq f.c1 c2, decSeq c3 c4, asdu) := by
  simp [frameFields, h]

theorem frameFields_of_short {f : RxFrame} (h : f.tail.length < 3) : frameFields f = none := by
  obtain ⟨c1, tail⟩ := f
  match tail, h with
  | [], _ | [_], _ | [_, _], _ => rfl

/-- Settles O22: the peer's number is the frame's where it has four control octets. -/
theorem receivedSFrameChangesNoRegister : Obligations.ReceivedSFrameChangesNoRegister := by
  refine fun s f hl => ⟨fun c2 c3 c4 more htail => ?_, fun hshort => ?_⟩
  · exact (execRxS_eq hl).trans (by rw [frameFields_of_four_octets htail]; rfl)
  · exact (execRxS_eq hl).trans (by rw [frameFields_of_short hshort]; rfl)

/-! ### RX_I (R131, R190, R191) -/

/-- The counting of a received I-frame reads no log. -/
theorem State.countI_logEvent (s : State) (e : LogEvent) :
    (s.logEvent e).countI = s.countI.logEvent e := by
  rw [State.countI_eq, State.countI_eq]
  rfl

/-- What a dispatch may write: the port's fields, TX with its counter, and the log. -/
theorem State.dispatchAsdu_frame (s : State) (a : Asdu) :
    s.dispatchAsdu a = { s with
      sendCount := (s.dispatchAsdu a).sendCount
      tx := (s.dispatchAsdu a).tx
      log := (s.dispatchAsdu a).log
      disp := (s.dispatchAsdu a).disp
      answers := (s.dispatchAsdu a).answers
      draws := (s.dispatchAsdu a).draws } := by
  by_cases ha : s.isActive = true
  · rw [State.dispatchAsdu_active s a ha]
  · rw [State.dispatchAsdu_inactive s a (by simpa using ha)]

/-- While answers are held, a dispatch takes the first of them (R191). -/
theorem State.nextAnswer_of_cons {s : State} {a : List Asdu} {as : List (List Asdu)}
    (h : s.answers = a :: as) : s.nextAnswer = a := by
  rw [State.nextAnswer, h]

/-- Settles O21: the event is logged and counted first, so the dispatch runs from the counted state;
its equations give the fields while inactive and while active. -/
theorem receivedIFrameCountsAndDispatches : Obligations.ReceivedIFrameCountsAndDispatches := by
  refine fun s f hl => ⟨fun hshort => execRxI_short hl hshort, fun c2 c3 c4 asdu htail hmin => ?_⟩
  have hexec := execRxI_whole hl htail hmin
  generalize LogEvent.rxI (decSeq f.c1 c2) (decSeq c3 c4) = e at hexec ⊢
  rw [State.countI_logEvent] at hexec
  refine ⟨_, hexec, ?frame, ?count, fun hidle => ?inactive, fun hactive => ?active⟩
  case frame =>
    rw [State.dispatchAsdu_receiveCount]
    refine (State.dispatchAsdu_frame _ _).trans ?_
    rw [State.countI_eq]
    rfl
  case count =>
    simp [inc15_toNat]
  case inactive =>
    rw [State.dispatchAsdu_inactive _ _ (by simpa using hidle)]
    simp
  case active =>
    have hcounted : (s.countI.logEvent e).isActive = true := by simpa using hactive
    have hsend := State.dispatchAsdu_sendCount _ asdu hcounted
    have hdispatch := State.dispatchAsdu_active _ asdu hcounted
    refine ⟨(s.countI.logEvent e).nextAnswer, fun a as hans => ?_, ?_, ?_, ?_, ?_⟩
    · have hans' : (s.countI.logEvent e).answers = a :: as := by simpa using hans
      refine ⟨State.nextAnswer_of_cons hans', ?_, ?_⟩
      · rw [hdispatch, hans']
        rfl
      · simpa [hans] using congrArg State.draws hdispatch
    · simpa using congrArg State.disp hdispatch
    · simpa using congrArg State.tx hdispatch
    · simpa using hsend
    · simpa using congrArg State.log hdispatch

/-! ### The counters over lists of frames (R137) -/

theorem execList_cons_of_next {i : Instr} {is : List Instr} {s t : State} (h : exec i s = .next t) :
    execList (i :: is) s = execList is t := by
  rw [execList, h]

/-- One I-frame received is counted once; the loop goes on (R131). -/
theorem exec_rxI_counts {f : RxFrame} {s : State} (hl : s.InLoop) (hoctets : 3 ≤ f.tail.length)
    (hmin : s.iMinSize ≤ f.tail.length + 3) :
    ∃ t, exec (.rxI f) s = .next t ∧ t.InLoop ∧ t.iMinSize = s.iMinSize ∧
      t.receiveCount = s.receiveCount + 1 ∧ t.unconfirmedCount = s.unconfirmedCount + 1 := by
  obtain ⟨c1, tail⟩ := f
  match tail, hoctets, hmin with
  | c2 :: c3 :: c4 :: asdu, _, hmin =>
    exact ⟨_, execRxI_whole hl rfl hmin, by simpa [State.InLoop] using hl, by simp,
      by simp [inc15_eq], by simp⟩

theorem execList_rxI_counts (fs : List RxFrame) {s : State} (hl : s.InLoop)
    (hfs : ∀ f ∈ fs, 3 ≤ f.tail.length ∧ s.iMinSize ≤ f.tail.length + 3) :
    ∃ t, execList (fs.map Instr.rxI) s = .next t ∧
      t.receiveCount.toNat = (s.receiveCount.toNat + fs.length) % 32768 ∧
      t.unconfirmedCount = s.unconfirmedCount + fs.length := by
  induction fs generalizing s with
  | nil => exact ⟨s, rfl, (Nat.mod_eq_of_lt s.receiveCount.isLt).symm, rfl⟩
  | cons f fs ih =>
    obtain ⟨⟨hoctets, hmin⟩, hrest⟩ := List.forall_mem_cons.mp hfs
    obtain ⟨u, hu, hlu, hminu, hrecv, hunconf⟩ := exec_rxI_counts hl hoctets hmin
    obtain ⟨t, ht, htrecv, htunconf⟩ := ih hlu (hminu ▸ hrest)
    refine ⟨t, (execList_cons_of_next hu).trans ht, ?_, ?_⟩
    · rw [htrecv, hrecv, toNat_add_one, List.length_cons]
      omega
    · rw [htunconf, hunconf, List.length_cons]
      omega

theorem execList_sendI_counts (as : List Asdu) {s : State} (hl : s.InLoop)
    (has : ∀ a ∈ as, a.length ≤ 251) :
    ∃ t, execList (as.map Instr.sendI) s = .next t ∧
      t.sendCount.toNat = (s.sendCount.toNat + as.length) % 32768 ∧
      t.receiveCount = s.receiveCount ∧ t.tx.length = s.tx.length + as.length := by
  induction as generalizing s with
  | nil => exact ⟨s, rfl, (Nat.mod_eq_of_lt s.sendCount.isLt).symm, rfl, rfl⟩
  | cons a as ih =>
    obtain ⟨ha, hrest⟩ := List.forall_mem_cons.mp has
    have hu : exec (.sendI a) s = _ := (execSendI_eq hl).trans (congrArg _ (s.sendI_fits ha))
    obtain ⟨t, ht, hsend, hrecv, htx⟩ := ih (s := { s with
      tx := s.tx ++ [writeIFrame a s.sendCount s.receiveCount], sendCount := s.sendCount + 1 })
      hl hrest
    refine ⟨t, (execList_cons_of_next hu).trans ht, ?_, hrecv, ?_⟩
    · rw [hsend, toNat_add_one, List.length_cons]
      omega
    · simp [htx]
      omega

/-- Settles O24, by induction over either list. -/
theorem countersCountFrames : Obligations.CountersCountFrames :=
  ⟨fun fs _ => execList_rxI_counts fs, fun as _ => execList_sendI_counts as⟩

/-! ### The peer's numbers (R135) -/

/-- `u` is `s` with another log. -/
def SameButLog (s u : State) : Prop := u = { s with log := u.log }

theorem State.sameButLog_logEvent (s : State) (e e' : LogEvent) :
    SameButLog (s.logEvent e) (s.logEvent e') := rfl

/-- A dispatch reads no log: what it sends and counts is fixed by the other fields. -/
theorem SameButLog.dispatchAsdu {s u : State} (h : SameButLog s u) (a : Asdu) :
    SameButLog (s.dispatchAsdu a) (u.dispatchAsdu a) := by
  unfold SameButLog at h ⊢
  have hact : u.isActive = s.isActive := by rw [h]
  cases ha : s.isActive with
  | false =>
    rwa [State.dispatchAsdu_inactive s a ha, State.dispatchAsdu_inactive u a (hact.trans ha)]
  | true =>
    have hsend : (u.dispatchAsdu a).sendCount = (s.dispatchAsdu a).sendCount := by
      apply BitVec.eq_of_toNat_eq
      rw [State.dispatchAsdu_sendCount u a (hact.trans ha), State.dispatchAsdu_sendCount s a ha, h]
      rfl
    rw [State.dispatchAsdu_active s a ha, State.dispatchAsdu_active u a (hact.trans ha), hsend, h]
    rfl

/-- Settles O25: the counted states differ in the event logged, and the dispatch of one ASDU keeps
them so; two frames below `I_MIN_SIZE` have the same length and raise alike. -/
theorem peerNumbersReachOnlyTheLog : Obligations.PeerNumbersReachOnlyTheLog := by
  intro s f g c2 c3 c4 d2 d3 d4 asdu hl hf hg
  have hlen : g.tail.length = f.tail.length := by rw [hf, hg]; rfl
  by_cases hmin : s.iMinSize ≤ f.tail.length + 3
  · refine ⟨_, _, execRxI_whole hl hf hmin, execRxI_whole hl hg (hlen ▸ hmin), ?_⟩
    rw [State.countI_logEvent, State.countI_logEvent]
    exact (s.countI.sameButLog_logEvent _ _).dispatchAsdu asdu
  · have hshort : f.tail.length + 3 < s.iMinSize := by omega
    refine ⟨_, _, execRxI_short hl hshort, execRxI_short hl (hlen ▸ hshort), ?_⟩
    rw [hlen]

end Sys2Proof.Machine

/-! # Proofs: the timeout supervisor (spec/42_timeout_supervisor.md)

`T3_RESET` and `T3_CHECK` by what they write, the iteration of a silent connection as its two timers
alone, and the probes of a silent peer from one expiry after the other. -/

namespace Sys2Proof.Machine

/-! ### T3_RESET and T3_CHECK (R151, R152) -/

/-- Settles O26, by the equation of the time read. -/
theorem t3ResetMovesDeadline : Obligations.T3ResetMovesDeadline := by
  intro s hl
  refine (execT3Reset_eq hl).trans ?_
  rw [State.sample_eq]
  rfl

section
variable {s : State} (hl : s.InLoop)
include hl

/-- Up to the deadline only the time is read. -/
theorem execT3Check_of_not_expired (h : s.timeRead ≤ s.nextIdleTimeoutAt) :
    execT3Check s = .next s.sample := by
  rw [execT3Check_eq hl, if_neg (Nat.not_lt.mpr h)]

/-- After the deadline, within PROBE_LIMIT, the probe is sent and the deadline moves. -/
theorem execT3Check_of_probe (h : s.nextIdleTimeoutAt < s.timeRead)
    (hp : s.outstandingTestProbes ≤ s.probeLimit) :
    execT3Check s = .next { s with
      now := s.timeRead
      clock := s.clock.tail
      tx := s.tx ++ [writeUFrame 0x43]
      outstandingTestProbes := s.outstandingTestProbes + 1
      nextIdleTimeoutAt := s.timeRead + s.t3 * s.tps } := by
  rw [execT3Check_eq hl, if_pos h, if_neg (Nat.not_lt.mpr hp)]

/-- After the deadline, beyond PROBE_LIMIT, the peer is judged dead. -/
theorem execT3Check_of_dead (h : s.nextIdleTimeoutAt < s.timeRead)
    (hp : s.probeLimit < s.outstandingTestProbes) :
    execT3Check s = .next (s.sample.trapEntry (.livenessFailure s.outstandingTestProbes)) := by
  rw [execT3Check_eq hl, if_pos h, if_pos hp]

end

/-- Settles O27, one case per outcome. -/
theorem t3CheckProbesOrGivesVerdict : Obligations.T3CheckProbesOrGivesVerdict := by
  intro s hl
  refine ⟨fun h => ?nothing, execT3Check_of_probe hl, fun h hp => ?verdict⟩
  case nothing =>
    exact (execT3Check_of_not_expired hl h).trans (by rw [State.sample_eq])
  case verdict =>
    exact (execT3Check_of_dead hl h hp).trans (by rw [State.sample_eq]; rfl)

/-! ### The iteration of a silent connection (R150, R157) -/

/-- A running connection on which only the idle timer can act: the peer has sent nothing, no
I-frame awaits its acknowledgment, no ASDU is to be sent, and time passes between steps only. -/
structure State.Silent (s : State) : Prop where
  running : s.phase = .running
  notClosed : s.isRunning = true
  nothingReceived : s.rx = []
  streamOpen : s.rxEof = false
  nothingUnconfirmed : s.unconfirmedCount = 0
  nothingQueued : s.isActive = false ∨ s.oq = []
  clockEmpty : s.clock = []

/-- The probe is sent and counted, and the deadline moves to `t3` from now (R152). -/
def State.sendProbe (s : State) : State :=
  { s with
    tx := s.tx ++ [writeUFrame 0x43]
    outstandingTestProbes := s.outstandingTestProbes + 1
    nextIdleTimeoutAt := s.now + s.t3 * s.tps }

namespace State.Silent
variable {s : State} (hs : s.Silent)
include hs

theorem inLoop : s.InLoop := .inr hs.running

theorem not_closing : s.phase ≠ .closing := by simp [hs.running]

theorem timeRead_eq : s.timeRead = s.now := by simp [State.timeRead, hs.clockEmpty]

theorem sample_eq : s.sample = s := by simp [State.sample, hs.clockEmpty]

/-- The end of FB's window leaves the connection silent. -/
theorem closeWindow : s.closeWindow.Silent := { hs with }

/-- Steps 2 and 3 do nothing: the timers alone are left. -/
theorem afterRead_eq : afterRead s = andThen (execT3Check s) execT2Check := by
  have hqueue : execQueueSend s = .next s := by
    rw [execQueueSend_eq hs.inLoop]
    obtain h | h := hs.nothingQueued <;> simp [h]
  have hack : execForceAck s = .next s := by
    rw [execForceAck_eq hs.inLoop, if_neg (by simp [hs.nothingUnconfirmed])]
  rw [afterRead, hqueue, andThen_of_not_closing _ hs.not_closing, hack,
    andThen_of_not_closing _ hs.not_closing]

/-- T2 is inactive. -/
theorem execT2Check_eq : execT2Check s = .next s := by
  rw [Machine.execT2Check_eq hs.inLoop, if_neg (by simp [hs.nothingUnconfirmed]), hs.sample_eq]

/-- T3 past the deadline and within PROBE_LIMIT: the probe is sent. -/
theorem execT3Check_sendProbe (hlate : s.nextIdleTimeoutAt < s.now)
    (hlimit : s.outstandingTestProbes ≤ s.probeLimit) :
    execT3Check s = .next s.sendProbe := by
  rw [execT3Check_of_probe hs.inLoop (hs.timeRead_eq.symm ▸ hlate) hlimit]
  simp [State.sendProbe, hs.timeRead_eq, hs.clockEmpty]

/-- T3 past the deadline and beyond PROBE_LIMIT: the verdict. -/
theorem execT3Check_verdict (hlate : s.nextIdleTimeoutAt < s.now)
    (hlimit : s.probeLimit < s.outstandingTestProbes) :
    execT3Check s = .next (s.trapEntry (.livenessFailure s.outstandingTestProbes)) := by
  rw [execT3Check_of_dead hs.inLoop (hs.timeRead_eq.symm ▸ hlate) hlimit, hs.sample_eq]

/-- Step 1 only closes FB's window, so the iteration is its two timers. -/
theorem execIterate_eq : execIterate s = andThen (execT3Check s.closeWindow) execT2Check := by
  have hphase : ({ s with phase := .running } : State) = s := by rw [← hs.running]
  rw [execIterate_running hs.inLoop hs.notClosed, hphase,
    readAndRoute_idle hs.inLoop hs.streamOpen (.inl hs.nothingReceived),
    andThen_of_not_closing _ hs.closeWindow.not_closing, hs.closeWindow.afterRead_eq]

end State.Silent

/-! ### A time advance past the deadline, then the worker's turn (R157) -/

/-- A scheduled time advance (R213). -/
theorem step_advance {s : State} {d : Nat} {ms : List Move} (h : s.sched = .advance d :: ms) :
    step s = .next { s with now := s.now + d, sched := ms } := by
  simp only [step, nextMove, h, runMove]

/-- Time has advanced by `d`, and both moves are off the schedule. -/
def State.advanced (s : State) (d : Nat) : State :=
  { s with now := s.now + d, sched := s.sched.tail.tail }

/-- After the advance by `d` the worker has probed the peer. -/
def State.probed (s : State) (d : Nat) : State := (s.advanced d).closeWindow.sendProbe

/-- After the advance by `d` the worker has judged the peer dead. -/
def State.judgedDead (s : State) (d : Nat) : State :=
  (s.advanced d).closeWindow.trapEntry (.livenessFailure s.outstandingTestProbes)

namespace State.Silent
variable {s : State} (hs : s.Silent)
include hs

theorem advanced (d : Nat) : (s.advanced d).Silent := { hs with }

theorem probed (d : Nat) : (s.probed d).Silent := { hs with }

/-- An advance and the worker's turn are the iteration at the later time. -/
theorem run_advance_worker (k : Nat) {d : Nat} {ms : List Move} {t : State}
    (hsched : s.sched = .advance d :: .worker :: ms) (ht : execIterate (s.advanced d) = .next t) :
    Host.Core.run core (k + 2) s = Host.Core.run core k t := by
  have hworker := step_worker (s := { s with now := s.now + d, sched := .worker :: ms })
    hs.inLoop (.inr ⟨ms, rfl⟩)
  rw [State.advanced, hsched] at ht
  exact (core_run_succ _ (step_advance hsched)).trans (core_run_succ _ (hworker.trans ht))

/-- Within PROBE_LIMIT an expiry costs one probe. -/
theorem run_probed (k : Nat) {d : Nat} {ms : List Move}
    (hsched : s.sched = .advance d :: .worker :: ms) (hlate : s.nextIdleTimeoutAt < s.now + d)
    (hlimit : s.outstandingTestProbes ≤ s.probeLimit) :
    Host.Core.run core (k + 2) s = Host.Core.run core k (s.probed d) := by
  refine hs.run_advance_worker k hsched ?_
  rw [(hs.advanced d).execIterate_eq,
    (hs.advanced d).closeWindow.execT3Check_sendProbe hlate hlimit]
  exact (andThen_of_not_closing _ (hs.probed d).not_closing).trans (hs.probed d).execT2Check_eq

/-- Beyond PROBE_LIMIT an expiry is the verdict, and T2 is not checked (R150, D17). -/
theorem run_judgedDead (k : Nat) {d : Nat} {ms : List Move}
    (hsched : s.sched = .advance d :: .worker :: ms) (hlate : s.nextIdleTimeoutAt < s.now + d)
    (hlimit : s.probeLimit < s.outstandingTestProbes) :
    Host.Core.run core (k + 2) s = Host.Core.run core k (s.judgedDead d) := by
  refine hs.run_advance_worker k hsched ?_
  rw [(hs.advanced d).execIterate_eq,
    (hs.advanced d).closeWindow.execT3Check_verdict hlate hlimit]
  exact andThen_of_closing _ rfl

end State.Silent

/-- `t` is the silent connection `s` after `k` probes and nothing else. -/
structure State.ProbedTimes (s : State) (k : Nat) (t : State) : Prop where
  silent : t.Silent
  counted : t.outstandingTestProbes = k
  sent : t.tx = s.tx ++ List.replicate k (writeUFrame 0x43)
  logKept : t.log = s.log
  limitKept : t.probeLimit = s.probeLimit
  periodKept : t.t3 * t.tps = s.t3 * s.tps

namespace State.ProbedTimes
variable {s u : State} {k d : Nat} {ms : List Move}

theorem refl (hs : s.Silent) (h0 : s.outstandingTestProbes = 0) : s.ProbedTimes 0 s :=
  ⟨hs, h0, by simp, rfl, rfl, rfl⟩

theorem probed (h : s.ProbedTimes k u) (d : Nat) : s.ProbedTimes (k + 1) (u.probed d) where
  silent := h.silent.probed d
  counted := congrArg (· + 1) h.counted
  sent := by
    have htx : (u.probed d).tx = u.tx ++ [writeUFrame 0x43] := rfl
    rw [htx, h.sent, List.replicate_succ', List.append_assoc]
  logKept := h.logKept
  limitKept := h.limitKept
  periodKept := h.periodKept

/-- One expiry more within PROBE_LIMIT is one probe more, with the deadline `t3` after it. -/
theorem expiry (h : s.ProbedTimes k u) (hsched : u.sched = .advance d :: .worker :: ms)
    (hlate : u.nextIdleTimeoutAt < u.now + d) (hlimit : k ≤ s.probeLimit) :
    ∃ t, (∀ n, Host.Core.run core (n + 2) u = Host.Core.run core n t) ∧ s.ProbedTimes (k + 1) t ∧
      t.sched = ms ∧ t.nextIdleTimeoutAt = t.now + s.t3 * s.tps := by
  refine ⟨u.probed d, fun n => ?_, h.probed d, congrArg (·.tail.tail) hsched,
    congrArg (u.now + d + ·) h.periodKept⟩
  exact h.silent.run_probed n hsched hlate (by rwa [h.counted, h.limitKept])

/-- The expiry beyond PROBE_LIMIT is the verdict, without a frame. -/
theorem verdict (h : s.ProbedTimes k u) (hsched : u.sched = .advance d :: .worker :: ms)
    (hlate : u.nextIdleTimeoutAt < u.now + d) (hlimit : s.probeLimit < k) :
    ∃ t, Host.Core.run core 2 u = .next t ∧ t.phase = .closing ∧
      t.tx = s.tx ++ List.replicate k (writeUFrame 0x43) ∧
      t.log = s.log ++ [.closing 5 (some k)] ∧ t.outstandingTestProbes = k := by
  have hrun := h.silent.run_judgedDead 0 hsched hlate (by rwa [h.counted, h.limitKept])
  refine ⟨u.judgedDead d, hrun, rfl, h.sent, ?_, h.counted⟩
  have hlog : (u.judgedDead d).log = u.log ++ [.closing 5 (some u.outstandingTestProbes)] := rfl
  rw [hlog, h.logKept, h.counted]

end State.ProbedTimes

/-- Settles O30: each of the first three expiries leaves a silent connection with one probe more
and the deadline `t3` after it; the fourth finds three probes, more than the limit. -/
theorem silentPeerIsProbedThriceThenClosed :
    Obligations.SilentPeerIsProbedThriceThenClosed := by
  intro s d1 d2 d3 d4 hphase hrunning hrx heof hunconf hprobes hlimit hqueue hclock h1 h2 h3 h4
    hsched
  have hs : s.Silent := ⟨hphase, hrunning, hrx, heof, hunconf, hqueue, hclock⟩
  obtain ⟨s1, run1, hs1, hsched1, hdue1⟩ :=
    (State.ProbedTimes.refl hs hprobes).expiry hsched h1 (by omega)
  obtain ⟨s2, run2, hs2, hsched2, hdue2⟩ := hs1.expiry hsched1 (by omega) (by omega)
  obtain ⟨s3, run3, hs3, hsched3, hdue3⟩ := hs2.expiry hsched2 (by omega) (by omega)
  obtain ⟨t, run4, ht⟩ := hs3.verdict hsched3 (by omega) (by omega)
  have hrun1 : Host.Core.run core 2 s = .next s1 := run1 0
  have hrun2 : Host.Core.run core 4 s = .next s2 := (run1 2).trans (run2 0)
  have hrun3 : Host.Core.run core 6 s = .next s3 := (run1 4).trans ((run2 2).trans (run3 0))
  have hrun4 : Host.Core.run core 8 s = .next t :=
    (run1 6).trans ((run2 4).trans ((run3 2).trans run4))
  refine ⟨?_, t, hrun4, ht⟩
  rintro k (rfl | rfl | rfl)
  · exact ⟨s1, hrun1, hs1.silent.running, hs1.counted, hs1.logKept, hs1.sent⟩
  · exact ⟨s2, hrun2, hs2.silent.running, hs2.counted, hs2.logKept, hs2.sent⟩
  · exact ⟨s3, hrun3, hs3.silent.running, hs3.counted, hs3.logKept, hs3.sent⟩

end Sys2Proof.Machine

/-! # Proofs: the control-function handler (spec/43_control_function.md)

What each operation does to the data-transfer mode, the one frame of an iteration that can switch it,
and the five operations of the handler in the loop. -/

namespace Sys2Proof.Machine

/-! ### Who switches the mode (R177) -/

/-- The mode after an instruction other than `ITERATE`, from the mode before it. -/
@[simp] def modeAfter : Instr → Bool → Bool
  | .rxStartdtAct _, _ => true
  | .rxStopdtAct _, _ => false
  | _, b => b

/-- Only the two activations move the mode, each to its own side. -/
theorem eq_activation_of_modeAfter_ne {i : Instr} {b : Bool} (h : modeAfter i b ≠ b) :
    ∃ f, i = if modeAfter i b then .rxStartdtAct f else .rxStopdtAct f := by
  cases i with
  | rxStartdtAct f => exact ⟨f, rfl⟩
  | rxStopdtAct f => exact ⟨f, rfl⟩
  | _ => exact absurd rfl h

/-- Every operation but `ITERATE` leaves the mode that `modeAfter` says. -/
theorem exec_isActive {i : Instr} {s t : State} (h : exec i s = .next t) (hi : i ≠ .iterate) :
    t.isActive = modeAfter i s.isActive := by
  have he := exec_next h
  cases i with
  | iterate => exact absurd rfl hi
  | rxI f => obtain ⟨_, rfl⟩ | ⟨_, _, _, _, _, _, rfl⟩ := he <;> simp
  | readFrame =>
    obtain ⟨_, _, rfl⟩ | ⟨_, _, rfl⟩ | ⟨_, _, rfl⟩ | ⟨_, _, _, _, rfl⟩ | ⟨_, _, _, _, rfl⟩ := he <;>
      simp
  | resync => obtain ⟨_, _, _, _, rfl⟩ := he; simp
  | classify n => obtain ⟨_, rfl⟩ | ⟨_, _, _, rfl⟩ := he <;> simp
  | txI asdu ns nr => obtain ⟨_, rfl⟩ := he; simp
  | forceAck => obtain ⟨_, rfl⟩ | ⟨_, rfl⟩ := he <;> simp
  | t3Check => obtain ⟨_, _, rfl⟩ | ⟨_, _, rfl⟩ | ⟨_, rfl⟩ := he <;> simp
  | t2Check => obtain ⟨_, _, _, rfl⟩ | ⟨_, rfl⟩ := he <;> simp
  | queueSend => obtain ⟨_, rfl⟩ | ⟨_, _, _, _, rfl⟩ := he <;> simp
  | doClose => obtain ⟨_, rfl⟩ := he; simp
  | _ => obtain rfl := he; simp

/-- From `s` to `t` the mode is kept, or is the one that the received frame at the head of RX gives. -/
def ModeFromHead (s t : State) : Prop :=
  t.isActive = s.isActive ∨
    ∃ i rest, decode s.rx = .ok (i, rest) ∧ t.isActive = modeAfter i s.isActive

/-- A mode that has changed was switched by the activation at the head of RX. -/
theorem ModeFromHead.activation {s t : State} (h : ModeFromHead s t)
    (hne : t.isActive ≠ s.isActive) :
    ∃ f rest, decode s.rx =
      .ok (if t.isActive then .rxStartdtAct f else .rxStopdtAct f, rest) := by
  obtain h | ⟨i, rest, hdec, hmode⟩ := h
  · exact absurd h hne
  · rw [hmode] at hne ⊢
    obtain ⟨f, hf⟩ := eq_activation_of_modeAfter_ne hne
    exact ⟨f, rest, hf ▸ hdec⟩

/-- Step 1 runs the received frame's operation once, and nothing else in it writes the mode. -/
theorem readAndRoute_modeFromHead {s t : State} (h : readAndRoute s = .next t) :
    ModeFromHead s t := by
  obtain ⟨u, hu, hcase⟩ := readAndRoute_next h
  have hkept : u.isActive = s.isActive := exec_isActive (i := .readFrame) hu nofun
  obtain ⟨_, rfl⟩ | ⟨_, _, rfl, rfl⟩ | ⟨c1, tail, rest, x, htail, hrx, rfl, hx, hend⟩ := hcase
  · exact .inl hkept
  · exact .inl hkept
  · rw [runReceived_eq_exec] at hx
    have hmode := exec_isActive hx (ne_iterate_of_inIteration (inIteration_receivedInstr _ _))
    refine .inr ⟨_, rest, hrx ▸ decode_frameOf c1 tail rest htail, ?_⟩
    obtain ⟨_, rfl⟩ | ⟨_, _, rfl⟩ := hend <;> simpa using hmode

/-- Steps 2 to 5 leave the mode. -/
theorem afterRead_isActive {s t : State} (h : afterRead s = .next t) :
    t.isActive = s.isActive := by
  obtain ⟨q, f, c, hq, hf, hc, hend⟩ := afterRead_next h
  have hkept : c.isActive = s.isActive := calc
    c.isActive = f.isActive := exec_isActive (i := .t3Check) hc nofun
    _ = q.isActive := exec_isActive (i := .forceAck) hf nofun
    _ = s.isActive := exec_isActive (i := .queueSend) hq nofun
  obtain ⟨_, rfl⟩ | ⟨_, ht⟩ := hend
  · exact hkept
  · exact (exec_isActive (i := .t2Check) ht nofun).trans hkept

/-- An iteration moves the mode in step 1 alone. -/
theorem execIterate_modeFromHead {s t : State} (h : execIterate s = .next t) :
    ModeFromHead s t := by
  obtain ⟨_, ⟨_, rfl⟩ | ⟨_, r, hr, hcont⟩⟩ := execIterate_next h
  · exact .inl rfl
  have hread : ModeFromHead s r := by simpa [ModeFromHead] using readAndRoute_modeFromHead hr
  obtain ⟨_, rfl⟩ | ⟨_, hafter⟩ := hcont
  · exact hread
  · rwa [ModeFromHead, afterRead_isActive hafter]

/-- Settles O34: the operations by their effects; a step moves the mode in an iteration only, and
there by the frame at the head of RX. -/
theorem onlyStartAndStopSwitchTheMode : Obligations.OnlyStartAndStopSwitchTheMode := by
  refine ⟨fun i s t hi h => ?operation, fun s t h hne => ?step⟩
  case operation =>
    rw [exec_isActive h hi]
    cases i <;> rfl
  case step =>
    obtain ⟨_, h⟩ | ⟨_, h⟩ | h := step_worker_or_environment h
    · exact (execIterate_modeFromHead h).activation hne
    · exact absurd (exec_isActive (i := .doClose) h nofun) hne
    · exact absurd (congrArg State.isActive h) hne

/-! ### The five operations in the loop (R170 to R175) -/

section
variable {s : State} (f : RxFrame) (hl : s.InLoop)
include hl

theorem execRxStartdtAct_eq :
    execRxStartdtAct f s = .next ((s.txAppend (writeUFrame 0x0B)).setActive true) :=
  whenWorker_inLoop _ hl

theorem execRxStopdtAct_eq :
    execRxStopdtAct f s = .next ((s.txAppend (writeUFrame 0x23)).setActive false) :=
  whenWorker_inLoop _ hl

theorem execRxTestfrAct_eq : execRxTestfrAct f s = .next (s.txAppend (writeUFrame 0x83)) :=
  whenWorker_inLoop _ hl

theorem execRxTestfrCon_eq : execRxTestfrCon f s = .next { s with outstandingTestProbes := 0 } :=
  whenWorker_inLoop _ hl

theorem execRxUnknown_eq : execRxUnknown f s = .next (s.logEvent (.unknownControl f.c1)) :=
  whenWorker_inLoop _ hl

end

/-- Settles O31: each appends its confirmation, then writes the mode. -/
theorem startAndStopConfirmAndSwitch : Obligations.StartAndStopConfirmAndSwitch := fun _ f hl =>
  ⟨execRxStartdtAct_eq f hl, execRxStopdtAct_eq f hl⟩

/-- Settles O32: one appends the confirmation, the other writes the probe count. -/
theorem testFramesAnsweredOrCleared : Obligations.TestFramesAnsweredOrCleared := fun _ f hl =>
  ⟨execRxTestfrAct_eq f hl, execRxTestfrCon_eq f hl⟩

/-- Settles O33: the operation logs its octet; the class of the four octets by evaluation. -/
theorem unknownOctetsAreOnlyLogged : Obligations.UnknownOctetsAreOnlyLogged :=
  ⟨fun _ f hl => execRxUnknown_eq f hl, by decide⟩

end Sys2Proof.Machine

/-! # Proofs: the connection driver (spec/45_connection_driver.md)

The host commands, the closing step and QUEUE_SEND by their tests; step 1 by what stands at the head
of RX, the iteration from it, and that no line of an iteration stops. -/

namespace Sys2Proof.Machine

/-! ### The host commands (R211, R212) -/

/-- Settles O44: neither command tests or writes anything else. -/
theorem hostCommandsTouchOneFlag : Obligations.HostCommandsTouchOneFlag := fun _ => ⟨rfl, rfl⟩

/-! ### The closing step (R243) -/

theorem execDoClose_of_closing {s : State} (h : s.phase = .closing) :
    execDoClose s = .next { s with
      rxEof := true, rx := [], out := s.out ++ [.sockClose, .deregister], phase := .closed } :=
  if_pos h

/-- The worker's turn in CLOSING is `DO_CLOSE` (R200). -/
theorem workerStep_of_closing {s : State} (h : s.phase = .closing) :
    workerStep s = execDoClose s := by
  rw [workerStep, h]
  rfl

/-- Settles O43: the operation by its one test, the worker's turn from it. -/
theorem doCloseClosesAndDeregisters : Obligations.DoCloseClosesAndDeregisters := by
  refine fun s => ⟨fun h => ⟨execDoClose_of_closing h, fun hs => ?turn⟩, fun h => if_neg h⟩
  case turn =>
    have hp : s.popMove.phase = .closing := h
    exact (step_workerStep hs).trans ((workerStep_of_closing hp).trans (execDoClose_of_closing hp))

/-! ### QUEUE_SEND (R204) -/

/-- Nothing is sent while inactive or with an empty queue. -/
theorem execQueueSend_of_nothing {s : State} (hl : s.InLoop)
    (h : s.isActive = false ∨ s.oq = []) : execQueueSend s = .next s := by
  rw [execQueueSend_eq hl]
  obtain h | h := h <;> simp [h]

/-- While active the first ASDU is taken and handed to `SEND_I`. -/
theorem execQueueSend_of_cons {s : State} (hl : s.InLoop) (ha : s.isActive = true) {a : Asdu}
    {q : List Asdu} (hq : s.oq = a :: q) :
    execQueueSend s = .next (({ s with oq := q } : State).sendI a) := by
  rw [execQueueSend_eq hl, if_pos ha, hq]

/-- Settles O35: the ASDU taken fits or is over-long, and `SEND_I` sends or logs it. -/
theorem queueSendTakesAtMostOne : Obligations.QueueSendTakesAtMostOne := by
  refine fun s hl => ⟨fun h => execQueueSend_of_nothing hl (.inl h),
    fun h => execQueueSend_of_nothing hl (.inr h), fun a q ha hq => ⟨fun hfits => ?_,
      fun hlong => ?_⟩⟩
  · exact (execQueueSend_of_cons hl ha hq).trans (congrArg _ (State.sendI_fits _ hfits))
  · exact (execQueueSend_of_cons hl ha hq).trans (congrArg _ (State.sendI_overlong _ hlong))

/-! ### A close request (R202, R236) -/

/-- Trap entry where `isRunning` is clear already writes the log and `phase`. -/
theorem State.trapEntry_of_not_running {s : State} (h : s.isRunning = false) (x : Cause) :
    s.trapEntry x = { s with phase := .closing, log := s.log ++ [.closing x.code x.info] } := by
  rw [State.trapEntry, ← h]
  rfl

theorem execIterate_of_closeRequest {s : State} (hl : s.InLoop) (h : s.isRunning = false) :
    execIterate s = .next (s.trapEntry .closeRequested) := by
  rw [execIterate, whenWorker_inLoop _ hl, if_neg (by simp [h])]

/-- Settles O36: the worker's turn is the iteration, which tests the request before step 1. -/
theorem closeRequestRaisesAtStepZero : Obligations.CloseRequestRaisesAtStepZero := by
  have hiterate {s : State} (hl : s.InLoop) (h : s.isRunning = false) : execIterate s =
      .next { s with phase := .closing, log := s.log ++ [.closing 1 none] } :=
    (execIterate_of_closeRequest hl h).trans (congrArg _ (s.trapEntry_of_not_running h _))
  exact fun s hl h => ⟨hiterate hl h, fun hs => (step_worker hl hs).trans (hiterate hl h)⟩

/-! ### Step 1 by the head of RX (R203) -/

theorem State.InLoop.phase_ne_closing {s : State} (h : s.InLoop) : s.phase ≠ .closing := by
  obtain h | h := h <;> simp [h]

theorem andThen_of_inLoop {s : State} (k : State → Result) (hl : s.InLoop) :
    andThen (.next s) k = k s :=
  andThen_of_not_closing k hl.phase_ne_closing

/-- Where `READ_FRAME` delivered no frame, raise or not, step 1 only ends FB's window. -/
theorem readAndRoute_of_not_delivered {s u : State} (h : execReadFrame s = .next u)
    (hu : u.delivered = none) : readAndRoute s = .next u.closeWindow := by
  rw [readAndRoute, h]
  by_cases hp : u.phase = .closing
  · rw [andThen_of_closing _ hp]
    rfl
  · rw [andThen_of_not_closing _ hp, hu]
    rfl

section
variable {s : State} (hl : s.InLoop)
include hl

/-- An ended stream without a byte (R233). -/
theorem readAndRoute_of_ended_empty (he : s.rxEof = true) (h : s.rx = []) :
    readAndRoute s = .next (s.closeWindow.trapEntry .socketClosed) :=
  readAndRoute_of_not_delivered (execReadFrame_of_ended_empty hl he h) rfl

/-- An ended stream within a frame (R232). -/
theorem readAndRoute_of_ended_incomplete (he : s.rxEof = true)
    (h : headOf s.rx = .incomplete s.rx.length) :
    readAndRoute s = .next (s.closeWindow.trapEntry (.framingError s.rx.length)) :=
  readAndRoute_of_not_delivered (execReadFrame_of_ended_incomplete hl he h) rfl

/-- The frame `68 00` has no control octet to classify (R105, R234). -/
theorem readAndRoute_of_no_octet {rest : List Byte} (h : s.rx = frameOf [] ++ rest) :
    readAndRoute s =
      .next (({ s with rx := rest } : State).closeWindow.trapEntry (.frameTooShort 0)) := by
  have hlu : (s.closeWindow.deliver [] rest).InLoop := hl
  have hclass : execClassify 2 (s.closeWindow.deliver [] rest) =
      .next ((s.closeWindow.deliver [] rest).trapEntry (.frameTooShort 0)) :=
    (execClassify_eq hlu).trans (if_pos (by decide))
  rw [readAndRoute, execReadFrame_of_frame hl h (Nat.zero_le _), andThen_of_inLoop _ hlu]
  simp only [State.deliver_delivered, List.length_nil, Nat.zero_add]
  rw [hclass, andThen_of_closing _ rfl]
  rfl

/-- An I-frame below `I_MIN_SIZE` (R131, R234). -/
theorem readAndRoute_of_short_iFrame {c1 : Byte} {tail rest : List Byte}
    (h : s.rx = frameOf (c1 :: tail) ++ rest) (hlen : tail.length ≤ 254)
    (hclass : classOf c1 = .i) (hshort : tail.length + 3 < s.iMinSize) :
    readAndRoute s = .next (({ s with rx := rest } : State).closeWindow.trapEntry
      (.frameTooShort (tail.length + 1))) := by
  have hrxI :
      runReceived .i ⟨c1, tail⟩ ((s.closeWindow.deliver (c1 :: tail) rest).setClass .i) = _ :=
    execRxI_short hl hshort
  rw [readAndRoute_frame hl h hlen, hclass, hrxI, andThen_of_closing _ rfl]
  rfl

/-! ### The iteration (R208, R209) -/

/-- A raise in step 1 ends the iteration (R208). -/
theorem execIterate_of_raise (hr : s.isRunning = true) {t : State} (ht : t.phase = .closing)
    (h : readAndRoute { s with phase := .running } = .next t) : execIterate s = .next t := by
  rw [execIterate_running hl hr, h, andThen_of_closing _ ht]

/-- A step 1 that did not raise is followed by steps 2 to 5 (R209). -/
theorem execIterate_of_read (hr : s.isRunning = true) {t : State} (ht : t.InLoop)
    (h : readAndRoute { s with phase := .running } = .next t) : execIterate s = afterRead t := by
  rw [execIterate_running hl hr, h, andThen_of_inLoop _ ht]

/-- Steps 2 to 5 with nothing to send, nothing unconfirmed and the deadline not passed at the later
of the two time reads: both timers read the time and do no more. -/
theorem afterRead_of_idle (hq : s.isActive = false ∨ s.oq = []) (hu : s.unconfirmedCount = 0)
    (ht : s.sample.timeRead ≤ s.nextIdleTimeoutAt) : afterRead s = .next s.sample.sample := by
  have hsample : s.sample.InLoop := by simpa [State.InLoop] using hl
  have hack : execForceAck s = .next s := by
    rw [execForceAck_eq hl, if_neg (by simp [hu])]
  have hearlier : s.timeRead ≤ s.sample.timeRead := by
    simpa using s.sample.now_le_timeRead
  have ht2 : execT2Check s.sample = .next s.sample.sample := by
    rw [execT2Check_eq hsample, if_neg (by simp [hu])]
  rw [afterRead, execQueueSend_of_nothing hl hq, andThen_of_inLoop _ hl, hack,
    andThen_of_inLoop _ hl, execT3Check_of_not_expired hl (hearlier.trans ht),
    andThen_of_inLoop _ hsample, ht2]

end

/-- Two time reads one after the other (D3). -/
theorem State.sample_sample (s : State) : s.sample.sample = { s with
    now := s.timeRead + s.clock.tail.headD 0, clock := s.clock.tail.tail } := by
  simp only [State.sample_eq, State.timeRead]

/-- Settles O40: step 1 ends FB's window, steps 2 to 5 read the time twice. -/
theorem idleIterationSendsNothing : Obligations.IdleIterationSendsNothing := by
  intro s hl hr hrx he hq hu ht
  let u : State := ({ s with phase := .running } : State).closeWindow
  have hul : u.InLoop := .inr rfl
  have hlate : u.sample.timeRead ≤ u.nextIdleTimeoutAt := by
    rw [State.sample_eq]
    exact ht
  have hread : readAndRoute { s with phase := .running } = .next u :=
    readAndRoute_idle (.inr rfl) he (.inl hrx)
  calc execIterate s = afterRead u := execIterate_of_read hl hr hul hread
    _ = .next u.sample.sample := afterRead_of_idle hul hq hu hlate
    _ = _ := congrArg _ u.sample_sample

/-- Settles O41: each raise of step 1 is the end of the iteration. -/
theorem raiseInStepOneEndsIteration : Obligations.RaiseInStepOneEndsIteration := by
  intro s hl hr
  refine ⟨fun hrx he => ?closed, fun he hpart => ?incomplete, fun rest hrx => ?noOctet,
    fun len c1 tail rest hrx hbit hlen hmin => ?shortI⟩
  case closed =>
    exact execIterate_of_raise hl hr rfl (readAndRoute_of_ended_empty (.inr rfl) he hrx)
  case incomplete =>
    exact execIterate_of_raise hl hr rfl
      (readAndRoute_of_ended_incomplete (.inr rfl) he (headOf_part hpart))
  case noOctet =>
    exact execIterate_of_raise hl hr rfl (readAndRoute_of_no_octet (.inr rfl) hrx)
  case shortI =>
    have hclass : classOf c1 = .i := classOf_of_even ((and_0x01_eq_zero_iff c1).mpr hbit)
    have hbound : tail.length ≤ 254 := by have := len.isLt; omega
    rw [frameOf_of_length (body := c1 :: tail) hlen] at hrx
    rw [← hlen]
    exact execIterate_of_raise hl hr rfl (readAndRoute_of_short_iFrame
      (s := { s with phase := .running }) (.inr rfl) hrx hbound hclass
      (show tail.length + 3 < s.iMinSize by omega))

/-! ### The worker's step (R203, R209) -/

/-- Settles O37: a decoded head is the frame of a first control octet and a tail, which step 1
delivers, classifies and runs. -/
theorem stepRunsDecodedInstruction : Obligations.StepRunsDecodedInstruction := by
  intro s i rest hl hr hs hdec
  obtain ⟨c1, tail, hlen, hrx, rfl⟩ := decode_ok hdec
  have htake : s.rx.take (tail.length + 3) = frameOf (c1 :: tail) := by
    rw [hrx]
    exact List.take_left' (by simp [frameOf])
  refine ⟨Memory.writeList [] 0 (frameOf (c1 :: tail)), tail.length + 3, classOf c1, ?_, ?_, ?_,
    ⟨_, rfl⟩, ?_⟩
  · rw [htake, hrx]
  · rw [htake, encode_receivedInstr]
  · intro k
    rw [htake]
    exact Memory.read_frame _ k (by simp [frameOf]; omega)
  · have hread := readAndRoute_frame (s := { s.popMove with phase := .running }) (.inr rfl) hrx hlen
    rw [runReceived_eq_exec] at hread
    exact (step_worker hl hs).trans ((execIterate_running (s := s.popMove) hl hr).trans
      (congrArg (andThen · afterRead) hread))

/-- Settles O38: step 1 ends FB's window, after it has dropped a byte that is no start byte. -/
theorem stepWithoutFrameRunsTheRest : Obligations.StepWithoutFrameRunsTheRest := by
  intro s hl hr hs
  have hstep {t : State} (ht : t.InLoop)
      (h : readAndRoute { s.popMove with phase := .running } = .next t) :
      step s = afterRead t :=
    (step_worker hl hs).trans (execIterate_of_read (s := s.popMove) hl hr ht h)
  refine ⟨fun he hrx => ?openStream, fun b more hrx hb hf => ?badStart⟩
  case openStream =>
    rw [parserState_ne_hunt] at hrx
    exact hstep (.inr rfl) (readAndRoute_idle (.inr rfl) he hrx)
  case badStart =>
    exact hstep (.inr rfl) (readAndRoute_badStart (s := { s.popMove with phase := .running })
      (.inr rfl) hf hrx hb)

/-! ### No line of an iteration stops (R209) -/

/-- The worker is in its loop and the last confirmation is not ahead of the time, so that
`T2_CHECK` can subtract (U5). -/
structure State.Ready (s : State) : Prop where
  inLoop : s.InLoop
  confirmation : s.lastConfirmationTime ≤ s.now

/-- An answer that is a next state, raised or ready for the next line. -/
def Completes (o : Result) : Prop := ∃ t, o = .next t ∧ (t.phase = .closing ∨ t.Ready)

theorem Completes.raise (s : State) (x : Cause) : Completes (.next (s.trapEntry x)) :=
  ⟨_, rfl, .inl rfl⟩

theorem State.Ready.completes {s : State} (h : s.Ready) : Completes (.next s) :=
  ⟨_, rfl, .inr h⟩

/-- A line after one that completes runs in a ready state, or not at all (R208). -/
theorem Completes.andThen {o : Result} {k : State → Result} (ho : Completes o)
    (hk : ∀ u : State, u.Ready → Completes (k u)) : Completes (andThen o k) := by
  obtain ⟨u, rfl, hu | hu⟩ := ho
  · rw [andThen_of_closing _ hu]
    exact ⟨u, rfl, .inl hu⟩
  · rw [andThen_of_inLoop _ hu.inLoop]
    exact hk u hu

namespace State.Ready
variable {s : State} (hs : s.Ready)
include hs

theorem closeWindow : s.closeWindow.Ready := { hs with }

theorem sample : s.sample.Ready := by
  rw [State.sample_eq]
  exact { hs with confirmation := hs.confirmation.trans s.now_le_timeRead }

theorem setIdleDeadline : s.setIdleDeadline.Ready := { hs with }

theorem sendI (a : Asdu) : (s.sendI a).Ready where
  inLoop := by simpa [State.InLoop] using hs.inLoop
  confirmation := by simpa using hs.confirmation

theorem sendS : s.sendS.Ready := by
  rw [State.sendS_eq]
  exact { hs with confirmation := Nat.le_refl _ }

/-- The first unconfirmed I-frame is stamped with the time just read (R131). -/
theorem countI : s.countI.Ready := by
  rw [State.countI_eq]
  by_cases h0 : s.unconfirmedCount = 0
  · simp only [if_pos h0]
    exact { hs with confirmation := Nat.le_refl _ }
  · simp only [if_neg h0]
    exact { hs with }

theorem dispatchAsdu (a : Asdu) : (s.dispatchAsdu a).Ready where
  inLoop := by simpa [State.InLoop] using hs.inLoop
  confirmation := by simpa using hs.confirmation

/-- A byte that is no start byte is dropped, or raises under BAD_START_FATAL (R102, D39). -/
theorem dropByte (b : Byte) (rest : List Byte) :
    (s.dropByte b rest).phase = .closing ∨ (s.dropByte b rest).Ready := by
  obtain ⟨_, hd⟩ | ⟨_, hd⟩ := s.dropByte_cases b rest <;> rw [hd]
  · exact .inl rfl
  · exact .inr { hs with }

/-- With an `I_MIN_SIZE` of at least 6 a frame that is not too short has its four control octets
(LOG 31). -/
theorem completes_rxI (f : RxFrame) (hmin : 6 ≤ s.iMinSize) : Completes (execRxI f s) := by
  by_cases hshort : f.tail.length + 3 < s.iMinSize
  · rw [execRxI_short hs.inLoop hshort]
    exact .raise _ _
  · obtain ⟨c1, tail⟩ := f
    match tail, hshort with
    | c2 :: c3 :: c4 :: asdu, hshort =>
      rw [execRxI_whole hs.inLoop rfl (Nat.le_of_not_lt hshort)]
      have hlog : (s.logEvent (.rxI (decSeq c1 c2) (decSeq c3 c4))).Ready := { hs with }
      exact (hlog.countI.dispatchAsdu asdu).completes
    | [], h | [_], h | [_, _], h =>
      simp only [List.length_cons, List.length_nil] at h
      omega

theorem completes_received (c : FrameClass) (f : RxFrame) (hmin : 6 ≤ s.iMinSize) :
    Completes (runReceived c f s) := by
  cases c with
  | i => exact hs.completes_rxI f hmin
  | s => exact ⟨_, execRxS_eq hs.inLoop, .inr { hs with }⟩
  | startdtAct => exact ⟨_, execRxStartdtAct_eq f hs.inLoop, .inr { hs with }⟩
  | stopdtAct => exact ⟨_, execRxStopdtAct_eq f hs.inLoop, .inr { hs with }⟩
  | testfrAct => exact ⟨_, execRxTestfrAct_eq f hs.inLoop, .inr { hs with }⟩
  | testfrCon => exact ⟨_, execRxTestfrCon_eq f hs.inLoop, .inr { hs with }⟩
  | unknown => exact ⟨_, execRxUnknown_eq f hs.inLoop, .inr { hs with }⟩

theorem completes_t3Reset : Completes (execT3Reset s) :=
  ⟨_, execT3Reset_eq hs.inLoop, .inr hs.sample.setIdleDeadline⟩

theorem completes_queueSend : Completes (execQueueSend s) := by
  by_cases hq : s.isActive = false ∨ s.oq = []
  · rw [execQueueSend_of_nothing hs.inLoop hq]
    exact hs.completes
  · simp only [not_or, Bool.not_eq_false] at hq
    obtain ⟨ha, hne⟩ := hq
    obtain ⟨a, q, hq⟩ := List.exists_cons_of_ne_nil hne
    have htaken : ({ s with oq := q } : State).Ready := { hs with }
    rw [execQueueSend_of_cons hs.inLoop ha hq]
    exact (htaken.sendI a).completes

theorem completes_forceAck : Completes (execForceAck s) := by
  rw [execForceAck_eq hs.inLoop]
  split
  · exact hs.sendS.completes
  · exact hs.completes

theorem completes_t3Check : Completes (execT3Check s) := by
  rw [execT3Check_eq hs.inLoop]
  split
  · split
    · exact .raise _ _
    · exact ⟨_, rfl, .inr
        { hs with confirmation := hs.confirmation.trans s.now_le_timeRead }⟩
  · exact hs.sample.completes

/-- The subtraction does not underflow: time has not gone back since the last confirmation
(R156, U5). -/
theorem completes_t2Check : Completes (execT2Check s) := by
  have htime : s.lastConfirmationTime ≤ s.timeRead := hs.confirmation.trans s.now_le_timeRead
  rw [execT2Check_eq hs.inLoop, if_neg (Nat.not_lt.mpr htime)]
  split
  · split
    · exact hs.sample.sendS.completes
    · exact hs.sample.completes
  · exact hs.sample.completes

/-- A complete frame that has a first control octet is run, then `T3_RESET` (R203). -/
theorem completes_frame (hmin : 6 ≤ s.iMinSize) {c1 : Byte} {tail rest : List Byte}
    (h : s.rx = frameOf (c1 :: tail) ++ rest) (hlen : tail.length ≤ 254) :
    Completes (readAndRoute s) := by
  have hu : ((s.closeWindow.deliver (c1 :: tail) rest).setClass (classOf c1)).Ready := { hs with }
  obtain ⟨t, ht, hend⟩ :=
    (hu.completes_received (classOf c1) ⟨c1, tail⟩ hmin).andThen fun _ hx => hx.completes_t3Reset
  rw [readAndRoute_frame hs.inLoop h hlen, ht]
  exact ⟨t.closeWindow, rfl, hend.imp_right closeWindow⟩

/-- Step 1, one head of RX after the other. -/
theorem completes_readAndRoute (hmin : 6 ≤ s.iMinSize) : Completes (readAndRoute s) := by
  have hopen (he : s.rxEof = false) (h : s.rx = [] ∨ headOf s.rx = .incomplete s.rx.length) :
      Completes (readAndRoute s) :=
    ⟨_, readAndRoute_idle hs.inLoop he h, .inr hs.closeWindow⟩
  cases hh : headOf s.rx with
  | empty =>
    have hrx := headOf_empty hh
    cases he : s.rxEof with
    | false => exact hopen he (.inl hrx)
    | true => exact ⟨_, readAndRoute_of_ended_empty hs.inLoop he hrx, .inl rfl⟩
  | incomplete k =>
    obtain rfl := (headOf_incomplete hh).1
    cases he : s.rxEof with
    | false => exact hopen he (.inr hh)
    | true => exact ⟨_, readAndRoute_of_ended_incomplete hs.inLoop he hh, .inl rfl⟩
  | badStart b rest =>
    obtain ⟨hrx, hb⟩ := headOf_badStart hh
    have hread := execReadFrame_of_badStart hs.inLoop hrx hb
    exact ⟨_, readAndRoute_of_not_delivered hread (by simp),
      (hs.closeWindow.dropByte b rest).imp_right closeWindow⟩
  | whole body rest =>
    obtain ⟨hrx, hlen⟩ := headOf_whole hh
    cases body with
    | nil => exact ⟨_, readAndRoute_of_no_octet hs.inLoop hrx, .inl rfl⟩
    | cons c1 tail => exact hs.completes_frame hmin hrx (Nat.le_of_succ_le_succ hlen)

theorem completes_afterRead : Completes (afterRead s) :=
  hs.completes_queueSend.andThen fun _ h => h.completes_forceAck.andThen fun _ h =>
    h.completes_t3Check.andThen fun _ h => h.completes_t2Check

theorem completes_iterate (hmin : 6 ≤ s.iMinSize) : Completes (execIterate s) := by
  cases hr : s.isRunning with
  | false =>
    rw [execIterate_of_closeRequest hs.inLoop hr]
    exact .raise _ _
  | true =>
    have hu : ({ s with phase := .running } : State).Ready := { hs with inLoop := .inr rfl }
    rw [execIterate_running hs.inLoop hr]
    exact (hu.completes_readAndRoute hmin).andThen fun _ h => h.completes_afterRead

end State.Ready

/-- Settles O39: every line of the iteration completes, and an iteration that answers stays in the
loop it entered or raises. -/
theorem iterateIsTotal : Obligations.IterateIsTotal := by
  intro s hl htime hmin
  obtain ⟨t, ht, _⟩ := State.Ready.completes_iterate ⟨hl, htime⟩ hmin
  obtain ⟨_, hrunning, _⟩ | ⟨hclosing, _⟩ := execIterate_stays_or_raises ht
  · exact ⟨t, ht, .inl hrunning⟩
  · exact ⟨t, ht, .inr hclosing⟩

end Sys2Proof.Machine

/-! # Proofs: the exceptions (spec/60_exceptions.md)

What the steps after a raise leave of the state at the raise. -/

namespace Sys2Proof.Machine

/-! ### The registers in CLOSING and CLOSED (R242, R243) -/

/-- After a raise `ITERATE` is not enabled (R200). -/
theorem not_inLoop_of_closing_or_closed {s : State} (h : s.phase = .closing ∨ s.phase = .closed) :
    ¬ s.InLoop := by
  obtain h | h := h <;> simp [State.InLoop, h]

/-- After a raise a step is `DO_CLOSE` or a move of the environment, and writes `phase`, RX and its
end flag, the outputs, the external queue, `isRunning` and the time, and no other field. -/
theorem step_frame_of_closing_or_closed {s t : State}
    (hp : s.phase = .closing ∨ s.phase = .closed) (h : step s = .next t) :
    t = { s.popMove with
      phase := t.phase
      rx := t.rx
      rxEof := t.rxEof
      out := t.out
      oq := t.oq
      isRunning := t.isRunning
      now := t.now } := by
  obtain ⟨hl, _⟩ | ⟨_, hclose⟩ | henv := step_worker_or_environment h
  · exact absurd hl (not_inLoop_of_closing_or_closed hp)
  · obtain ⟨_, rfl⟩ := execDoClose_next hclose
    rfl
  · rw [henv]

/-- Settles O51: a step after a raise writes none of these fields. -/
theorem closingKeepsRegisters : Obligations.ClosingKeepsRegisters := by
  intro s t hp h
  rw [step_frame_of_closing_or_closed hp h]
  exact ⟨rfl, rfl, rfl, rfl, rfl, rfl, rfl, rfl, rfl, rfl⟩

end Sys2Proof.Machine

/-! # Proofs: reset and hazards (spec/70_reset_and_hazards.md)

What one iteration takes from the receive stream and from the external queue. -/

namespace Sys2Proof.Machine

/-! ### One frame in, at most one queued ASDU out (R265, R203, R204) -/

/-- `after` is what `before` leaves when nothing, one byte that is no start byte, or one frame is
taken from its head. -/
def TakesAtMostOneFrame (before after : List Byte) : Prop :=
  before = after ∨ (∃ b, b ≠ startByte ∧ before = b :: after) ∨
    ∃ (len : Byte) (body : List Byte), body.length = len.toNat ∧
      before = startByte :: len :: body ++ after

/-- `after` is what `before` leaves when nothing or its first ASDU is taken. -/
def TakesAtMostOneAsdu (before after : List Asdu) : Prop :=
  before = after ∨ ∃ a, before = a :: after

theorem takesAtMostOneFrame_frameOf {body : List Byte} (rest : List Byte) (h : body.length ≤ 255) :
    TakesAtMostOneFrame (frameOf body ++ rest) rest :=
  .inr (.inr ⟨BitVec.ofNat 8 body.length, body, by simp; omega, rfl⟩)

/-- In an iteration RX is written by the reader of frames only: the access matrix (R43). -/
theorem exec_rx {i : Instr} {s t : State} (hi : inIteration i = true) (h : exec i s = .next t)
    (hread : i ≠ .readFrame) : t.rx = s.rx := by
  obtain ⟨_, _, _, _, _, _, _, _, hrx, _⟩ :=
    onlyTheMatrixWritesState i s t h (ne_iterate_of_inIteration hi)
  by_contra hne
  obtain rfl | rfl | rfl := hrx hne
  · exact hread rfl
  · cases hi
  · cases hi

/-- In an iteration the external queue is written by `QUEUE_SEND` only: the access matrix (R43). -/
theorem exec_oq {i : Instr} {s t : State} (hi : inIteration i = true) (h : exec i s = .next t)
    (hqueue : i ≠ .queueSend) : t.oq = s.oq := by
  obtain ⟨_, _, _, _, _, _, _, _, _, _, hoq, _⟩ :=
    onlyTheMatrixWritesState i s t h (ne_iterate_of_inIteration hi)
  by_contra hne
  exact hqueue (hoq hne)

/-- A received frame's operation takes from neither: its frame stands in FB. -/
theorem runReceived_rx_oq {c : FrameClass} {f : RxFrame} {s t : State}
    (h : runReceived c f s = .next t) : t.rx = s.rx ∧ t.oq = s.oq := by
  rw [runReceived_eq_exec] at h
  have hi := inIteration_receivedInstr c f
  exact ⟨exec_rx hi h (by cases c <;> nofun), exec_oq hi h (by cases c <;> nofun)⟩

/-- `READ_FRAME` takes at most one frame (R100, R102). -/
theorem execReadFrame_takesAtMostOneFrame {s t : State} (h : execReadFrame s = .next t) :
    TakesAtMostOneFrame s.rx t.rx := by
  obtain ⟨_, ⟨_, _, rfl⟩ | ⟨_, _, rfl⟩ | ⟨_, _, rfl⟩ | ⟨b, rest, hrx, hb, rfl⟩ |
    ⟨body, rest, hrx, hbody, rfl⟩⟩ := execReadFrame_next h
  · exact .inl rfl
  · exact .inl rfl
  · exact .inl rfl
  · obtain ⟨_, hd⟩ | ⟨_, hd⟩ := s.closeWindow.dropByte_cases b rest
    · exact .inl (by simp [hd])
    · exact .inr (.inl ⟨b, hb, by simp [hd, hrx]⟩)
  · simpa [hrx] using takesAtMostOneFrame_frameOf rest hbody

/-- After `READ_FRAME` step 1 takes no more. -/
theorem readAndRoute_rx_oq {s t : State} (h : readAndRoute s = .next t) :
    ∃ u, execReadFrame s = .next u ∧ t.rx = u.rx ∧ t.oq = u.oq := by
  obtain ⟨u, hu, hcase⟩ := readAndRoute_next h
  refine ⟨u, hu, ?_⟩
  obtain ⟨_, rfl⟩ | ⟨_, _, _, rfl⟩ | ⟨_, _, _, x, _, _, _, hx, hend⟩ := hcase
  · simp
  · simp
  · have hkept := runReceived_rx_oq hx
    obtain ⟨_, rfl⟩ | ⟨_, _, rfl⟩ := hend <;> simpa using hkept

/-- Step 1 takes at most one frame, and nothing from the external queue. -/
theorem readAndRoute_takesAtMostOneFrame {s t : State} (h : readAndRoute s = .next t) :
    TakesAtMostOneFrame s.rx t.rx ∧ t.oq = s.oq := by
  obtain ⟨u, hu, hrx, hoq⟩ := readAndRoute_rx_oq h
  rw [hrx, hoq]
  exact ⟨execReadFrame_takesAtMostOneFrame hu, exec_oq (i := .readFrame) rfl hu nofun⟩

/-- `QUEUE_SEND` takes at most the first ASDU (R204). -/
theorem execQueueSend_takesAtMostOneAsdu {s t : State} (h : execQueueSend s = .next t) :
    TakesAtMostOneAsdu s.oq t.oq := by
  obtain ⟨_, ⟨_, rfl⟩ | ⟨_, a, q, hoq, rfl⟩⟩ := execQueueSend_next h
  · exact .inl rfl
  · exact .inr ⟨a, by simpa using hoq⟩

/-- Steps 2 to 5 take at most the first ASDU, in `QUEUE_SEND`, and nothing from RX. -/
theorem afterRead_takesAtMostOneAsdu {s t : State} (h : afterRead s = .next t) :
    t.rx = s.rx ∧ TakesAtMostOneAsdu s.oq t.oq := by
  obtain ⟨q, f, c, hq, hf, hc, hend⟩ := afterRead_next h
  have hrx : c.rx = s.rx := calc
    c.rx = f.rx := exec_rx (i := .t3Check) rfl hc nofun
    _ = q.rx := exec_rx (i := .forceAck) rfl hf nofun
    _ = s.rx := exec_rx (i := .queueSend) rfl hq nofun
  have hoq : c.oq = q.oq := calc
    c.oq = f.oq := exec_oq (i := .t3Check) rfl hc nofun
    _ = q.oq := exec_oq (i := .forceAck) rfl hf nofun
  have htaken : c.rx = s.rx ∧ TakesAtMostOneAsdu s.oq c.oq :=
    ⟨hrx, hoq ▸ execQueueSend_takesAtMostOneAsdu hq⟩
  obtain ⟨_, rfl⟩ | ⟨_, ht⟩ := hend
  · exact htaken
  · rwa [exec_rx (i := .t2Check) rfl ht nofun, exec_oq (i := .t2Check) rfl ht nofun]

/-- Only step 1 of an iteration takes from RX, and only step 2 from the external queue. -/
theorem execIterate_takesAtMostOne {s t : State} (h : execIterate s = .next t) :
    TakesAtMostOneFrame s.rx t.rx ∧ TakesAtMostOneAsdu s.oq t.oq := by
  obtain ⟨_, ⟨_, rfl⟩ | ⟨_, r, hr, hcont⟩⟩ := execIterate_next h
  · exact ⟨.inl rfl, .inl rfl⟩
  obtain ⟨hframe, hoq⟩ := readAndRoute_takesAtMostOneFrame hr
  rw [State.enterLoop_rx] at hframe
  rw [State.enterLoop_oq] at hoq
  obtain ⟨_, rfl⟩ | ⟨_, hafter⟩ := hcont
  · exact ⟨hframe, .inl hoq.symm⟩
  · obtain ⟨hrx, hasdu⟩ := afterRead_takesAtMostOneAsdu hafter
    exact ⟨hrx ▸ hframe, hoq ▸ hasdu⟩

/-- Settles O54: step 1 takes at most one frame, step 2 at most one ASDU, and a close request
neither. -/
theorem oneFrameAndOneAsduPerIteration : Obligations.OneFrameAndOneAsduPerIteration :=
  fun _ _ => execIterate_takesAtMostOne

end Sys2Proof.Machine

/-! # Proofs: where operations stop, what acknowledges in time, and the environment

Delivery into FB and the alternative on a bad start byte; the operands outside an operation's
rule; the pseudo-operations; `T2_CHECK`; what runs after a raise; the environment's moves. -/

namespace Sys2Proof.Machine

/-! ### Delivery into FB (R100, R103) -/

/-- Settles O12: of what `READ_FRAME` can answer, only the delivery of a whole frame leaves
`delivered` set; the new window has closed the old one. -/
theorem deliveredFrameStandsInBuffer : Obligations.DeliveredFrameStandsInBuffer := by
  intro s t n h hn
  obtain ⟨_, ⟨_, _, rfl⟩ | ⟨_, _, rfl⟩ | ⟨_, _, rfl⟩ | ⟨_, _, _, _, rfl⟩ |
    ⟨body, rest, hrx, hbody, rfl⟩⟩ := execReadFrame_next h
  · simp at hn
  · simp at hn
  · simp at hn
  · simp at hn
  · obtain rfl : body.length + 2 = n := by simpa using hn
    have hlen : (frameOf body).length = body.length + 2 := rfl
    exact ⟨frameOf body, hrx, hlen, by omega, by omega, rfl, rfl,
      fun k => Memory.read_frame _ k (by omega)⟩

/-! ### The alternative on a byte that is no start byte (D39) -/

/-- With BAD_START_FATAL a byte that is no start byte raises, and RX keeps it (LOG 7). -/
theorem State.closeWindow_dropByte_of_fatal {s : State} (h : s.badStartFatal = true) (b : Byte)
    (rest : List Byte) :
    s.closeWindow.dropByte b rest = s.closeWindow.trapEntry (.framingError s.rx.length) :=
  if_pos h

/-- Settles O11: both operations raise on the byte. -/
theorem badStartFatalRaises : Obligations.BadStartFatalRaises := by
  intro s b rest hl hf h hb
  have hresync := execResync_of_badStart hl h hb
  exact ⟨(execReadFrame_of_badStart hl h hb).trans hresync.symm, _, hresync,
    by rw [State.closeWindow_dropByte_of_fatal hf]; rfl⟩

/-! ### Operands outside an operation's rule (U6, R102, R107) -/

section
variable {s : State} (hl : s.InLoop)
include hl

theorem execClassify_of_no_octet {n : Nat} (hn : 3 ≤ n) (h : s.fb.read 2 = none) :
    execClassify n s = .fault (.fbUnspecified 2) := by
  rw [execClassify_eq hl, if_neg (by omega), h]

theorem execResync_of_empty (h : s.rx = []) : execResync s = .fault .rxUnderflow := by
  rw [execResync_eq hl, h]

theorem execResync_of_startByte {rest : List Byte} (h : s.rx = startByte :: rest) :
    execResync s = .fault .notMisaligned := by
  rw [execResync_eq hl, h]
  exact if_pos rfl

/-- `RX_I` on a frame of at least `I_MIN_SIZE` bytes without its four control octets (LOG 31). -/
theorem execRxI_of_missing_octets {f : RxFrame} (hmin : s.iMinSize ≤ f.tail.length + 3)
    (h : f.tail.length < 3) : execRxI f s = .fault (.fbUnspecified (f.tail.length + 3)) := by
  have hsize : ¬ frameSize f < s.iMinSize := Nat.not_lt.mpr hmin
  rw [execRxI, whenWorker_inLoop _ hl, if_neg hsize, frameFields_of_short h]
  rfl

end

/-- Settles O17, one operation after the other. -/
theorem operandsOutsideRulesStop : Obligations.OperandsOutsideRulesStop := fun _ hl =>
  ⟨fun _ => execClassify_of_no_octet hl, execResync_of_empty hl,
    fun _ => execResync_of_startByte hl, fun _ _ _ hlong => (execTxI_eq hl).trans (if_pos hlong),
    fun _ => execRxI_of_missing_octets hl⟩

/-! ### The pseudo-operations (R194) -/

/-- `SEND_I` by the bound on its ASDU (R130, D23). -/
theorem State.sendI_eq (s : State) (a : Asdu) :
    s.sendI a = if a.length ≤ 251 then
        { s with
          tx := s.tx ++ [writeIFrame a s.sendCount s.receiveCount]
          sendCount := s.sendCount + 1 }
      else { s with log := s.log ++ [.asduTooLong] } := by
  split
  · exact s.sendI_fits ‹_›
  · exact s.sendI_overlong (by omega)

/-- Settles O23: each pseudo-operation is `SEND_I` of its ASDU by definition. -/
theorem pseudoOperationsSendOneIFrame : Obligations.PseudoOperationsSendOneIFrame := by
  intro s asdu negative hl i a hi
  have hsend : exec i s = exec (.sendI a) s := by
    obtain ⟨rfl, rfl⟩ | ⟨rfl, rfl⟩ | ⟨rfl, rfl⟩ := hi <;> rfl
  exact ⟨hsend, hsend.trans ((execSendI_eq hl).trans (congrArg _ (s.sendI_eq a)))⟩

/-! ### T2_CHECK (R153, U5) -/

section
variable {s : State} (hl : s.InLoop)
include hl

/-- With nothing unconfirmed only the time is read. -/
theorem execT2Check_of_inactive (h : s.unconfirmedCount = 0) :
    execT2Check s = .next s.sample := by
  rw [execT2Check_eq hl, if_neg (by omega)]

/-- Before `t2` has passed only the time is read. -/
theorem execT2Check_of_early (hback : s.lastConfirmationTime ≤ s.timeRead)
    (h : s.timeRead - s.lastConfirmationTime < s.t2 * s.tps) :
    execT2Check s = .next s.sample := by
  rw [execT2Check_eq hl, if_neg (Nat.not_lt.mpr hback), if_neg (Nat.not_le.mpr h), ite_self]

/-- From `t2` on the S-frame is sent. -/
theorem execT2Check_of_due (hu : 0 < s.unconfirmedCount)
    (hback : s.lastConfirmationTime ≤ s.timeRead)
    (h : s.t2 * s.tps ≤ s.timeRead - s.lastConfirmationTime) :
    execT2Check s = .next s.sample.sendS := by
  rw [execT2Check_eq hl, if_pos hu, if_neg (Nat.not_lt.mpr hback), if_pos h]

/-- A time behind the last confirmation stops T2 (U5). -/
theorem execT2Check_of_timeBack (hu : 0 < s.unconfirmedCount)
    (h : s.timeRead < s.lastConfirmationTime) : execT2Check s = .fault .timeWentBack := by
  rw [execT2Check_eq hl, if_pos hu, if_pos h]

end

/-- Settles O28, one case per outcome; the S-frame's own time read is the second (LOG 14). -/
theorem t2CheckAcknowledgesInTime : Obligations.T2CheckAcknowledgesInTime := by
  intro s hl
  refine ⟨fun h => ?inactive, fun hback h => ?early, fun hu hback h => ?due⟩
  case inactive =>
    exact (execT2Check_of_inactive hl h).trans (congrArg _ s.sample_eq)
  case early =>
    exact (execT2Check_of_early hl hback h).trans (congrArg _ s.sample_eq)
  case due =>
    refine (execT2Check_of_due hl hu hback h).trans ?_
    rw [State.sendS_eq, State.sample_eq]
    rfl

/-- Settles O29: `T2_CHECK` tests the time before it subtracts. -/
theorem timeGoingBackStopsT2 : Obligations.TimeGoingBackStopsT2 :=
  fun _ hl => execT2Check_of_timeBack hl

/-! ### After a raise (R200, R214) -/

/-- After a raise no operation but `DO_CLOSE` and the host's is executed (R200). -/
theorem exec_of_closing_or_closed {i : Instr} {s : State}
    (h : s.phase = .closing ∨ s.phase = .closed) (h1 : i ≠ .doClose) (h2 : i ≠ .close)
    (h3 : i ≠ .notify) : exec i s = .fault .workerNotEnabled := by
  cases i with
  | doClose => exact absurd rfl h1
  | close => exact absurd rfl h2
  | notify => exact absurd rfl h3
  | _ =>
    rw [exec]
    exact whenWorker_outside _ h

/-- CLOSED is final: the worker has no step (R214). -/
theorem workerStep_of_closed {s : State} (h : s.phase = .closed) :
    workerStep s = .fault .runOver := by
  rw [workerStep, h]

/-- Settles O50: the operations by their phase test, the worker's turn by the phase. -/
theorem nothingRunsAfterClosing : Obligations.NothingRunsAfterClosing := by
  refine fun s hp => ⟨fun i => exec_of_closing_or_closed hp, fun h hs => ?turn⟩
  case turn =>
    have hpop : s.popMove.phase = .closed := h
    exact (step_workerStep hs).trans (workerStep_of_closed hpop)

/-! ### The environment's moves (R213) -/

/-- A step takes the first move off the schedule and runs it. -/
theorem step_runMove {s : State} {m : Move} {ms : List Move} (h : s.sched = m :: ms) :
    step s = runMove m { s with sched := ms } := by
  rw [step, nextMove, h]

/-- Settles O45: the peer's append by its two tests, the other moves by what they write. -/
theorem environmentMovesTouchPortsOnly : Obligations.EnvironmentMovesTouchPortsOnly := by
  intro s m ms hs
  rw [step_runMove hs]
  refine ⟨?append, ?ended, ?ignored, ?rxEof, ?enq, ?close, ?notify, ?advance⟩
  case append =>
    rintro bytes rfl hp he
    exact (if_neg hp).trans (if_neg (by simp [he]))
  case ended =>
    rintro bytes rfl hp he
    exact (if_neg hp).trans (if_pos he)
  case ignored =>
    rintro bytes rfl hp
    exact if_pos hp
  case rxEof => rintro rfl; rfl
  case enq => rintro a rfl; rfl
  case close => rintro rfl; rfl
  case notify => rintro rfl; rfl
  case advance => rintro d rfl; rfl

end Sys2Proof.Machine
